-- ==== Sys2Proof/Word.lean ====
section
/-! DEFINITION. The word types of the hardware (spec/00_scope.md R3, R5, R6). -/

namespace Sys2Proof

/-- A byte: a general register, a timer, a memory cell (R3). -/
abbrev Byte := BitVec 8

/-- A 16-bit value: an instruction word, `I`, `PC`, `IR`, a stack slot (R3). -/
abbrev Word := BitVec 16

/-- A 4-bit field of an instruction: a register index or a row count (R61). -/
abbrev Nibble := BitVec 4

/-- A 12-bit address field of an instruction (R61). -/
abbrev Addr12 := BitVec 12

end Sys2Proof
end

