-- ==== Sys2Proof/Syntax.lean ====
section
/-! DEFINITION. The instructions: one constructor per row of spec/opcode_table.json (spec/30_encoding.md R64),
with the operands of R61 and R63 at their exact widths. -/

namespace Sys2Proof

/-- The 34 instructions. `x` and `y` are register indices, `kk` an immediate byte, `nnn` an address, `n` a row
count. Each field has exactly the values its bits admit, so every term is the instruction of some word. -/
inductive Instr where
  | cls                                -- 00E0
  | ret                                -- 00EE
  | jp (nnn : Addr12)                  -- 1nnn
  | call (nnn : Addr12)                -- 2nnn
  | seImm (x : Nibble) (kk : Byte)     -- 3xkk
  | sneImm (x : Nibble) (kk : Byte)    -- 4xkk
  | seReg (x y : Nibble)               -- 5xy0
  | ldImm (x : Nibble) (kk : Byte)     -- 6xkk
  | addImm (x : Nibble) (kk : Byte)    -- 7xkk
  | ldReg (x y : Nibble)               -- 8xy0
  | or (x y : Nibble)                  -- 8xy1
  | and (x y : Nibble)                 -- 8xy2
  | xor (x y : Nibble)                 -- 8xy3
  | addReg (x y : Nibble)              -- 8xy4
  | sub (x y : Nibble)                 -- 8xy5
  | shr (x y : Nibble)                 -- 8xy6, `y` decoded but selecting no operand (R68)
  | subn (x y : Nibble)                -- 8xy7
  | shl (x y : Nibble)                 -- 8xyE, `y` decoded but selecting no operand (R68)
  | sneReg (x y : Nibble)              -- 9xy0
  | ldI (nnn : Addr12)                 -- Annn
  | jprel (nnn : Addr12)               -- Bnnn
  | rnd (x : Nibble) (kk : Byte)       -- Cxkk
  | drw (x y n : Nibble)               -- Dxyn
  | skp (x : Nibble)                   -- Ex9E
  | sknp (x : Nibble)                  -- ExA1
  | ldVxDt (x : Nibble)                -- Fx07
  | ldVxK (x : Nibble)                 -- Fx0A
  | ldDtVx (x : Nibble)                -- Fx15
  | ldStVx (x : Nibble)                -- Fx18
  | addI (x : Nibble)                  -- Fx1E
  | ldF (x : Nibble)                   -- Fx29
  | ldB (x : Nibble)                   -- Fx33
  | stRegs (x : Nibble)                -- Fx55
  | ldRegs (x : Nibble)                -- Fx65
deriving DecidableEq, Repr

/-- The instruction's mnemonic in spec/opcode_table.json. -/
def Instr.mnemonic : Instr → String
  | .cls => "CLS"
  | .ret => "RET"
  | .jp _ => "JP"
  | .call _ => "CALL"
  | .seImm _ _ => "SE_IMM"
  | .sneImm _ _ => "SNE_IMM"
  | .seReg _ _ => "SE_REG"
  | .ldImm _ _ => "LD_IMM"
  | .addImm _ _ => "ADD_IMM"
  | .ldReg _ _ => "LD_REG"
  | .or _ _ => "OR"
  | .and _ _ => "AND"
  | .xor _ _ => "XOR"
  | .addReg _ _ => "ADD_REG"
  | .sub _ _ => "SUB"
  | .shr _ _ => "SHR"
  | .subn _ _ => "SUBN"
  | .shl _ _ => "SHL"
  | .sneReg _ _ => "SNE_REG"
  | .ldI _ => "LD_I"
  | .jprel _ => "JPREL"
  | .rnd _ _ => "RND"
  | .drw _ _ _ => "DRW"
  | .skp _ => "SKP"
  | .sknp _ => "SKNP"
  | .ldVxDt _ => "LD_VX_DT"
  | .ldVxK _ => "LD_VX_K"
  | .ldDtVx _ => "LD_DT_VX"
  | .ldStVx _ => "LD_ST_VX"
  | .addI _ => "ADD_I"
  | .ldF _ => "LD_F"
  | .ldB _ => "LD_B"
  | .stRegs _ => "ST_REGS"
  | .ldRegs _ => "LD_REGS"

end Sys2Proof
end

