-- ==== Sys2Proof/WellFormed.lean ====
section
/-! DEFINITION. Which instruction words are well formed: the opcode table of spec/30_encoding.md R64 as data, and
legality as R67 gives it (a word that matches no row is illegal). An `Instr` needs no check of its own: its operands
have exactly the widths of their fields, so an ill-formed one cannot be written. What can be ill formed is a word. -/

namespace Sys2Proof

/-- One row of R64's table. -/
structure OpcodeRow where
  mnemonic : String
  mask : Word
  value : Word
deriving DecidableEq, Repr

/-- `(w & mask) == match` (R64). -/
def OpcodeRow.selects (r : OpcodeRow) (w : Word) : Bool := w &&& r.mask == r.value

/-- Rows 1 to 19 of R64: the words whose major opcode is 0 to 9. -/
def opcodeRowsLow : List OpcodeRow :=
  [ ⟨"CLS", 0xFFFF#16, 0x00E0#16⟩,
    ⟨"RET", 0xFFFF#16, 0x00EE#16⟩,
    ⟨"JP", 0xF000#16, 0x1000#16⟩,
    ⟨"CALL", 0xF000#16, 0x2000#16⟩,
    ⟨"SE_IMM", 0xF000#16, 0x3000#16⟩,
    ⟨"SNE_IMM", 0xF000#16, 0x4000#16⟩,
    ⟨"SE_REG", 0xF00F#16, 0x5000#16⟩,
    ⟨"LD_IMM", 0xF000#16, 0x6000#16⟩,
    ⟨"ADD_IMM", 0xF000#16, 0x7000#16⟩,
    ⟨"LD_REG", 0xF00F#16, 0x8000#16⟩,
    ⟨"OR", 0xF00F#16, 0x8001#16⟩,
    ⟨"AND", 0xF00F#16, 0x8002#16⟩,
    ⟨"XOR", 0xF00F#16, 0x8003#16⟩,
    ⟨"ADD_REG", 0xF00F#16, 0x8004#16⟩,
    ⟨"SUB", 0xF00F#16, 0x8005#16⟩,
    ⟨"SHR", 0xF00F#16, 0x8006#16⟩,
    ⟨"SUBN", 0xF00F#16, 0x8007#16⟩,
    ⟨"SHL", 0xF00F#16, 0x800E#16⟩,
    ⟨"SNE_REG", 0xF00F#16, 0x9000#16⟩ ]

/-- Rows 20 to 34 of R64: the words whose major opcode is A to F. -/
def opcodeRowsHigh : List OpcodeRow :=
  [ ⟨"LD_I", 0xF000#16, 0xA000#16⟩,
    ⟨"JPREL", 0xF000#16, 0xB000#16⟩,
    ⟨"RND", 0xF000#16, 0xC000#16⟩,
    ⟨"DRW", 0xF000#16, 0xD000#16⟩,
    ⟨"SKP", 0xF0FF#16, 0xE09E#16⟩,
    ⟨"SKNP", 0xF0FF#16, 0xE0A1#16⟩,
    ⟨"LD_VX_DT", 0xF0FF#16, 0xF007#16⟩,
    ⟨"LD_VX_K", 0xF0FF#16, 0xF00A#16⟩,
    ⟨"LD_DT_VX", 0xF0FF#16, 0xF015#16⟩,
    ⟨"LD_ST_VX", 0xF0FF#16, 0xF018#16⟩,
    ⟨"ADD_I", 0xF0FF#16, 0xF01E#16⟩,
    ⟨"LD_F", 0xF0FF#16, 0xF029#16⟩,
    ⟨"LD_B", 0xF0FF#16, 0xF033#16⟩,
    ⟨"ST_REGS", 0xF0FF#16, 0xF055#16⟩,
    ⟨"LD_REGS", 0xF0FF#16, 0xF065#16⟩ ]

/-- R64's table, 34 rows. -/
def opcodeTable : List OpcodeRow := opcodeRowsLow ++ opcodeRowsHigh

/-- The mnemonics of the rows that select `w`: one for a legal word, none for an illegal one (R64, R67). -/
def selectedMnemonics (w : Word) : List String :=
  (opcodeTable.filter (·.selects w)).map (·.mnemonic)

/-- A word is well formed when some row selects it; every other word is illegal (R67). -/
def wellFormedWord (w : Word) : Bool := opcodeTable.any (·.selects w)

end Sys2Proof
end

