-- ==== Sys2Proof/Decode.lean ====
section
/-! DEFINITION. The decoder of spec/30_encoding.md (R61, R64, R65, R67), total on words and on bytes, and the
encoder written from the same formats (R62). It is written by nibbles, as R64 quotes the procedure, and not from the
table of WellFormed.lean, so that the agreement of the two is a statement. -/

namespace Sys2Proof

/-- Why no instruction was read: the class of R67's table the illegal word belongs to, or fewer than two bytes. -/
inductive Reject where
  | illegal0nnn (w : Word)   -- 0x0000 to 0x0FFF except 0x00E0 and 0x00EE
  | illegal5xyn (w : Word)   -- n ≠ 0
  | illegal8xyn (w : Word)   -- n ∈ 8, 9, A, B, C, D, F
  | illegal9xyn (w : Word)   -- n ≠ 0
  | illegalExkk (w : Word)   -- kk ∉ 9E, A1
  | illegalFxkk (w : Word)   -- kk ∉ 07, 0A, 15, 18, 1E, 29, 33, 55, 65
  | truncated                -- the byte list ends inside the instruction
deriving DecidableEq, Repr

/-- `op`, bits 15 to 12 (R61). -/
def fieldOp (w : Word) : Nibble := w.extractLsb' 12 4
/-- `x`, bits 11 to 8 (R61). -/
def fieldX (w : Word) : Nibble := w.extractLsb' 8 4
/-- `y`, bits 7 to 4 (R61). -/
def fieldY (w : Word) : Nibble := w.extractLsb' 4 4
/-- `n`, bits 3 to 0 (R61). -/
def fieldN (w : Word) : Nibble := w.extractLsb' 0 4
/-- `kk`, bits 7 to 0 (R61). -/
def fieldKk (w : Word) : Byte := w.extractLsb' 0 8
/-- `nnn`, bits 11 to 0 (R61). -/
def fieldNnn (w : Word) : Addr12 := w.extractLsb' 0 12

/-- Major opcode 0: only two words are instructions (R65). -/
def decode0 (w : Word) : Except Reject Instr :=
  if w = 0x00E0#16 then .ok .cls
  else if w = 0x00EE#16 then .ok .ret
  else .error (.illegal0nnn w)

/-- Major opcode 8: `n` selects among nine instructions (R65). -/
def decode8 (w : Word) : Except Reject Instr :=
  match fieldN w with
  | 0x0#4 => .ok (.ldReg (fieldX w) (fieldY w))
  | 0x1#4 => .ok (.or (fieldX w) (fieldY w))
  | 0x2#4 => .ok (.and (fieldX w) (fieldY w))
  | 0x3#4 => .ok (.xor (fieldX w) (fieldY w))
  | 0x4#4 => .ok (.addReg (fieldX w) (fieldY w))
  | 0x5#4 => .ok (.sub (fieldX w) (fieldY w))
  | 0x6#4 => .ok (.shr (fieldX w) (fieldY w))
  | 0x7#4 => .ok (.subn (fieldX w) (fieldY w))
  | 0xE#4 => .ok (.shl (fieldX w) (fieldY w))
  | _ => .error (.illegal8xyn w)

/-- Major opcode E: `kk` selects (R65). -/
def decodeE (w : Word) : Except Reject Instr :=
  match fieldKk w with
  | 0x9E#8 => .ok (.skp (fieldX w))
  | 0xA1#8 => .ok (.sknp (fieldX w))
  | _ => .error (.illegalExkk w)

/-- Major opcode F: `kk` selects (R65). -/
def decodeF (w : Word) : Except Reject Instr :=
  match fieldKk w with
  | 0x07#8 => .ok (.ldVxDt (fieldX w))
  | 0x0A#8 => .ok (.ldVxK (fieldX w))
  | 0x15#8 => .ok (.ldDtVx (fieldX w))
  | 0x18#8 => .ok (.ldStVx (fieldX w))
  | 0x1E#8 => .ok (.addI (fieldX w))
  | 0x29#8 => .ok (.ldF (fieldX w))
  | 0x33#8 => .ok (.ldB (fieldX w))
  | 0x55#8 => .ok (.stRegs (fieldX w))
  | 0x65#8 => .ok (.ldRegs (fieldX w))
  | _ => .error (.illegalFxkk w)

/-- The instruction a word stands for, "by its most-significant nibble, then by secondary nibble fields as needed"
(R64); every other word is rejected by the name of its class (R67; exact match, decision D10). -/
def decode (w : Word) : Except Reject Instr :=
  match fieldOp w with
  | 0x0#4 => decode0 w
  | 0x1#4 => .ok (.jp (fieldNnn w))
  | 0x2#4 => .ok (.call (fieldNnn w))
  | 0x3#4 => .ok (.seImm (fieldX w) (fieldKk w))
  | 0x4#4 => .ok (.sneImm (fieldX w) (fieldKk w))
  | 0x5#4 => if fieldN w = 0x0#4 then .ok (.seReg (fieldX w) (fieldY w)) else .error (.illegal5xyn w)
  | 0x6#4 => .ok (.ldImm (fieldX w) (fieldKk w))
  | 0x7#4 => .ok (.addImm (fieldX w) (fieldKk w))
  | 0x8#4 => decode8 w
  | 0x9#4 => if fieldN w = 0x0#4 then .ok (.sneReg (fieldX w) (fieldY w)) else .error (.illegal9xyn w)
  | 0xA#4 => .ok (.ldI (fieldNnn w))
  | 0xB#4 => .ok (.jprel (fieldNnn w))
  | 0xC#4 => .ok (.rnd (fieldX w) (fieldKk w))
  | 0xD#4 => .ok (.drw (fieldX w) (fieldY w) (fieldN w))
  | 0xE#4 => decodeE w
  | _ => decodeF w

/-- The word two consecutive bytes make: the byte at the lower address is the more significant one (R43). -/
def wordOfBytes (high low : Byte) : Word := high ++ low

/-- The more significant byte of a word, stored at the lower address (R43). -/
def highByte (w : Word) : Byte := w.extractLsb' 8 8

/-- The less significant byte of a word, stored at the higher address (R43). -/
def lowByte (w : Word) : Byte := w.extractLsb' 0 8

/-- The first instruction of a byte list and the bytes after it; every instruction is two bytes (R60). -/
def decodeBytes : List Byte → Except Reject (Instr × List Byte)
  | high :: low :: rest =>
    match decode (wordOfBytes high low) with
    | .ok i => .ok (i, rest)
    | .error e => .error e
  | _ => .error .truncated

/-- Format NNN (R62). -/
def packNnn (op : Nibble) (nnn : Addr12) : Word := op ++ nnn
/-- Format XKK (R62); format X is the same with `kk` a fixed minor opcode. -/
def packXkk (op x : Nibble) (kk : Byte) : Word := (op ++ x : BitVec 8) ++ kk
/-- Format XY (R62). -/
def packXy (op x y n : Nibble) : Word := (op ++ x : BitVec 8) ++ (y ++ n : BitVec 8)

/-- The word of an instruction (R62, R64). -/
def encode : Instr → Word
  | .cls => 0x00E0#16
  | .ret => 0x00EE#16
  | .jp nnn => packNnn 0x1#4 nnn
  | .call nnn => packNnn 0x2#4 nnn
  | .seImm x kk => packXkk 0x3#4 x kk
  | .sneImm x kk => packXkk 0x4#4 x kk
  | .seReg x y => packXy 0x5#4 x y 0x0#4
  | .ldImm x kk => packXkk 0x6#4 x kk
  | .addImm x kk => packXkk 0x7#4 x kk
  | .ldReg x y => packXy 0x8#4 x y 0x0#4
  | .or x y => packXy 0x8#4 x y 0x1#4
  | .and x y => packXy 0x8#4 x y 0x2#4
  | .xor x y => packXy 0x8#4 x y 0x3#4
  | .addReg x y => packXy 0x8#4 x y 0x4#4
  | .sub x y => packXy 0x8#4 x y 0x5#4
  | .shr x y => packXy 0x8#4 x y 0x6#4
  | .subn x y => packXy 0x8#4 x y 0x7#4
  | .shl x y => packXy 0x8#4 x y 0xE#4
  | .sneReg x y => packXy 0x9#4 x y 0x0#4
  | .ldI nnn => packNnn 0xA#4 nnn
  | .jprel nnn => packNnn 0xB#4 nnn
  | .rnd x kk => packXkk 0xC#4 x kk
  | .drw x y n => packXy 0xD#4 x y n
  | .skp x => packXkk 0xE#4 x 0x9E#8
  | .sknp x => packXkk 0xE#4 x 0xA1#8
  | .ldVxDt x => packXkk 0xF#4 x 0x07#8
  | .ldVxK x => packXkk 0xF#4 x 0x0A#8
  | .ldDtVx x => packXkk 0xF#4 x 0x15#8
  | .ldStVx x => packXkk 0xF#4 x 0x18#8
  | .addI x => packXkk 0xF#4 x 0x1E#8
  | .ldF x => packXkk 0xF#4 x 0x29#8
  | .ldB x => packXkk 0xF#4 x 0x33#8
  | .stRegs x => packXkk 0xF#4 x 0x55#8
  | .ldRegs x => packXkk 0xF#4 x 0x65#8

/-- The bytes of an instruction as they lie in memory, lowest address first (R43, R60). -/
def encodeBytes (i : Instr) : List Byte := [highByte (encode i), lowByte (encode i)]

/-- The instruction the decoder reads from an instruction whose bits are `w`, numbered as spec/opcode_table.json
numbers them: one 16-bit word, its bits above `nbits` zero, laid out in memory order and given to the decoder. -/
def decodeTableWord (nbits w : Nat) : Option Instr :=
  let word : Word := BitVec.ofNat 16 (w % 2 ^ nbits)
  match decodeBytes [highByte word, lowByte word] with
  | .ok (i, _) => some i
  | .error _ => none

end Sys2Proof
end

