-- ==== Sys2Proof/Config.lean ====
section
/-! DEFINITION. What an implementation fixes (`FONT_BASE`, `FONT_DATA`, spec/00_scope.md R4) and the free
input values (`KEY`, `rnd`, spec/40_step_cycle.md R81, R82). Every constant here is opaque: nothing in Lean can
learn its value, so a statement about it holds for every value. -/

namespace Sys2Proof

/-- `FONT_BASE`, the address of the font table: an open parameter whose only constraint is
`FONT_BASE ≤ 0x1B0` (R4, decision D18), which the type carries. Log entry 4. -/
opaque Config.fontBase : Fin 0x1B1

/-- `FONT_DATA`, the 80 bytes of the font table, character `c` at offsets `5*c` to `5*c + 4`: an open parameter
(R4, decision D19). Log entry 5. -/
opaque Config.fontData : Fin 80 → Byte

/-- The keypad value the host presents at its `n`-th presentation: any 16-bit value (R81, decision D2).
Log entry 1. -/
opaque Config.keyInput : Nat → BitVec 16

/-- The random byte present at the input port at the `n`-th presentation: any byte (R82, decision D3).
Log entry 2. -/
opaque Config.randomInput : Nat → Byte

end Sys2Proof
end

