-- ==== Sys2Proof/Machine/State.lean ====
section
/-! DEFINITION. The state of the machine (spec/10_state.md R10 to R28) as plain data, the fatal conditions
(spec/60_exceptions.md R170), the outcome types and the state after reset. -/

namespace Sys2Proof.Machine

/-- No step of this machine stops with a host fault. Every exceptional event of the hardware is a fatal condition
whose entry the spec describes in full (R175), so it is a next state with `STATUS` = Halted (log entry 7). The type
has no constructor: nothing can raise it (safe). -/
inductive Fault where
deriving DecidableEq, Repr

/-- Why an instruction has no meaning. -/
inductive Refusal where
  /-- An instruction whose arm of `exec` has no meaning yet; raised by `exec` alone. Safe: the machine stops where
  the hardware goes on. No arm of this model raises it. -/
  | notModelled (mnemonic : String)
deriving DecidableEq, Repr

/-- The instructions that access memory through `I`, as R170 records them. -/
inductive MemAccess where
  | dxyn | fx33 | fx55 | fx65
deriving DecidableEq, Repr

/-- The info of OutOfBounds (R170). -/
inductive OutOfBoundsInfo where
  | fetch (pc : Word)
  | mem (access : MemAccess) (i : Word)
  | key (k : Byte)
deriving DecidableEq, Repr

/-- The four fatal conditions with the info each records (R170). -/
inductive Fatal where
  | decodeError (ir : Word)
  | stackUnderflow (ir : Word)
  | stackOverflow (ir : Word)
  | outOfBounds (info : OutOfBoundsInfo)
deriving DecidableEq, Repr

/-- `STATUS` (R24). -/
inductive Status where
  | running
  | halted (reason : Fatal)
deriving DecidableEq, Repr

/-- `MEM`: the bytes that differ from the reset image, sorted by address (Ops.lean gives the form and what an
unlisted address reads as). -/
abbrev Memory := List Host.Cell

/-- `FB`: 32 rows of 64 one-bit pixels, `true` for set (R22). -/
abbrev Framebuffer := Vector (Vector Bool 64) 32

/-- Everything the spec gives the machine (R10 to R25), its two input ports as they stand for the coming step (R80),
and one counter of the model's own. -/
structure State where
  /-- `V[0]` to `V[15]` (R10); `VF` is `V[15]` (R11). -/
  v : Vector Byte 16
  /-- `I` (R12). -/
  i : Word
  /-- `PC` (R13). -/
  pc : Word
  /-- `MEM` (R16). -/
  mem : Memory
  /-- `STACK` (R18). -/
  stack : Vector Word 16
  /-- `SP`, the number of entries, 0 to 16 (R19). -/
  sp : Fin 17
  /-- `DT` (R20). -/
  dt : Byte
  /-- `ST` (R20). -/
  st : Byte
  /-- `FB` (R22). -/
  fb : Framebuffer
  /-- `IR` (R23). -/
  ir : Word
  /-- `STATUS` (R24). -/
  status : Status
  /-- `KEY` as presented to the coming step, bit `k` for key `k` (R21, R81). Log entry 1. -/
  key : BitVec 16
  /-- `rnd` as presented to the coming step (R82). Log entry 2. -/
  rnd : Byte
  /-- The model's own counter of input presentations (log entries 1 to 3). -/
  inputs : Nat
deriving DecidableEq, Repr

/-- The outcome of a step or of an execute phase. -/
abbrev Result := Host.Outcome State Fault Refusal

/-- The machine right after reset with the empty `ROM` (R27, R200, R203): registers, timers, stack, framebuffer and
`IR` zero, `PC` at 0x0200, Running; memory lists nothing, so it is the image of R17. `KEY`, `rnd` and the counter are
not the spec's reset values (log entry 3). -/
def State.reset : State where
  v := Vector.replicate 16 0#8
  i := 0#16
  pc := 0x0200#16
  mem := []
  stack := Vector.replicate 16 0#16
  sp := 0
  dt := 0#8
  st := 0#8
  fb := Vector.replicate 32 (Vector.replicate 64 false)
  ir := 0#16
  status := .running
  key := 0#16
  rnd := 0#8
  inputs := 0

end Sys2Proof.Machine
end

