-- ==== Sys2Proof/Machine/Ops.lean ====
section
/-! DEFINITION. The named operations over memory, registers, stack, framebuffer and timers; raising a fatal
condition; fetching; the input ports; reset with a ROM and the host's ports (spec/10_state.md, 20_memory.md,
40_step_cycle.md, 60_exceptions.md, 70_reset_and_hazards.md). -/

namespace Sys2Proof.Machine

/-! ## Memory -/

/-- The size of `MEM` (R3, R16): addresses 0 to 4095 exist. -/
def memSize : Nat := 4096

/-- `FONT_BASE` (R4). -/
def fontBase : Nat := Config.fontBase.val

/-- The font bytes of the reset image, and zero around them (R17). -/
def fontByte (a : Nat) : Byte :=
  if h : fontBase ≤ a ∧ a - fontBase < 80 then Config.fontData ⟨a - fontBase, h.2⟩ else 0#8

/-- What an address that memory does not list reads as: the reset image of R17 without a ROM. The font lies below
0x200 whatever `FONT_BASE` is (R4, R202), so from 0x200 on the image is zero. -/
def resetByte (a : Nat) : Byte := if a < 0x200 then fontByte a else 0#8

/-- `MemRead(a, 1)` (R42). Its callers check `a ≤ 4095` first (R46). -/
def Memory.read : Memory → Nat → Byte
  | [], a => resetByte a
  | (b, v) :: rest, a => if a = b then v else Memory.read rest a

/-- `MemRead(a, 2)`: the byte at the lower address is the more significant (R43). -/
def Memory.readWord (m : Memory) (a : Nat) : Word := wordOfBytes (m.read a) (m.read (a + 1))

/-- `MemWrite(a, 1, v)` (R44), keeping the canonical form. Its callers check `a ≤ 4095` first (R46). -/
def Memory.write : Memory → Nat → Byte → Memory
  | [], a, v => cell a v
  | (b, w) :: rest, a, v =>
    if a < b then cell a v ++ (b, w) :: rest
    else if a = b then cell a v ++ rest
    else (b, w) :: Memory.write rest a v
where
  /-- The entry for a byte, none when it is what the unlisted address reads as. -/
  cell (a : Nat) (v : Byte) : Memory := if v = resetByte a then [] else [(a, v)]

/-- One-byte writes to consecutive addresses, ascending (R41, R57). -/
def Memory.writeBytes : Memory → Nat → List Byte → Memory
  | m, _, [] => m
  | m, a, v :: vs => Memory.writeBytes (m.write a v) (a + 1) vs

/-- The canonical form of memory: addresses strictly rising, all of them existing, and no entry equal to what an
unlisted address reads as. -/
abbrev Memory.wf (m : Memory) : Prop :=
  m.Pairwise (fun c d => c.1 < d.1) ∧ ∀ c ∈ m, c.1 < memSize ∧ c.2 ≠ resetByte c.1

/-! ## Registers: one home for each, all reads and writes through these -/

/-- Read `V[x]` (R10). -/
def State.readV (s : State) (x : Nibble) : Byte := s.v[x.toNat]'x.isLt

/-- Write `V[x]` (R10). -/
def State.writeV (s : State) (x : Nibble) (b : Byte) : State := { s with v := s.v.set x.toNat b x.isLt }

/-- The index of `VF` (R11). -/
def vf : Nibble := 0xF#4

/-- Write `I` (R12). -/
def State.setI (s : State) (w : Word) : State := { s with i := w }

/-- Write `PC` (R13). -/
def State.setPc (s : State) (w : Word) : State := { s with pc := w }

/-- Replace `MEM` (R16) by what a memory operation gives. -/
def State.setMem (s : State) (m : Memory) : State := { s with mem := m }

/-- Write `STACK` and `SP` (R18, R19). -/
def State.setStack (s : State) (stack : Vector Word 16) (sp : Fin 17) : State := { s with stack := stack, sp := sp }

/-- Write `DT` (R20). -/
def State.setDt (s : State) (b : Byte) : State := { s with dt := b }

/-- Write `ST` (R20). -/
def State.setSt (s : State) (b : Byte) : State := { s with st := b }

/-- Replace `FB` (R22) by what a framebuffer operation gives. -/
def State.setFb (s : State) (fb : Framebuffer) : State := { s with fb := fb }

/-- Write `IR` (R23). -/
def State.setIr (s : State) (w : Word) : State := { s with ir := w }

/-- Write `STATUS` (R24). -/
def State.setStatus (s : State) (t : Status) : State := { s with status := t }

/-- Put values on the input ports (R80) and the model's counter. -/
def State.setInputs (s : State) (key : BitVec 16) (rnd : Byte) (inputs : Nat) : State :=
  { s with key := key, rnd := rnd, inputs := inputs }

/-- `PC <- (PC + 2) mod 65536`: the advance of the fetch (R84) and the skip (R114). -/
def State.advancePc (s : State) : State := s.setPc (s.pc + 2#16)

/-! ## Stack -/

/-- Push a return address: write `STACK[SP]`, then add 1 to `SP`; no result when 16 entries are held (R19, R102). -/
def State.push (s : State) (w : Word) : Option State :=
  if h : s.sp.val < 16 then
    some (s.setStack (s.stack.set s.sp.val w h) ⟨s.sp.val + 1, Nat.succ_lt_succ h⟩)
  else none

/-- Pop a return address: subtract 1 from `SP`, then read `STACK[SP]`; the slot keeps its value (R19, R100,
decision D16); no result when the stack is empty. -/
def State.pop (s : State) : Option (Word × State) :=
  if h : 0 < s.sp.val then
    have below : s.sp.val - 1 < 16 := by have := s.sp.isLt; omega
    some (s.stack[s.sp.val - 1]'below, s.setStack s.stack ⟨s.sp.val - 1, Nat.lt_succ_of_lt below⟩)
  else none

/-! ## Framebuffer -/

/-- `FB[r][c]` (R22); positions outside the screen hold no pixel. -/
def Framebuffer.pixel (fb : Framebuffer) (r c : Nat) : Bool :=
  if h : r < 32 ∧ c < 64 then (fb[r]'h.1)[c]'h.2 else false

/-- `FB[r][c] <- FB[r][c] ^ 1` (R151). -/
def Framebuffer.flip (fb : Framebuffer) (r c : Nat) : Framebuffer :=
  if h : r < 32 ∧ c < 64 then fb.set r ((fb[r]'h.1).set c (!(fb[r]'h.1)[c]'h.2) h.2) h.1 else fb

/-- Every pixel clear (R150). -/
def Framebuffer.clear : Framebuffer := Vector.replicate 32 (Vector.replicate 64 false)

/-- The sprite-XOR unit's work so far: the framebuffer and whether a set pixel was turned off. -/
structure Drawing where
  fb : Framebuffer
  collision : Bool
deriving DecidableEq, Repr

/-- One set sprite bit lands on pixel (r, c): note a collision, then flip (R151). -/
def Drawing.hit (d : Drawing) (r c : Nat) : Drawing :=
  { fb := d.fb.flip r c, collision := d.collision || d.fb.pixel r c }

/-- Sprite column `j` of byte `b` on framebuffer row `r`: clipped past column 63; bit 7 is the leftmost (R151,
R153). -/
def Drawing.column (r c0 : Nat) (b : Byte) (d : Drawing) (j : Nat) : Drawing :=
  if c0 + j > 63 then d else if b.getLsbD (7 - j) then d.hit r (c0 + j) else d

/-- One sprite row, byte `b`, on framebuffer row `r`: clipped past row 31 (R151, R152). -/
def Drawing.row (r c0 : Nat) (b : Byte) (d : Drawing) : Drawing :=
  if r > 31 then d else (List.range 8).foldl (Drawing.column r c0 b) d

/-- The loop of R151 over `n` sprite rows of bytes at `a`, `a + 1`, ..., starting at row `r0`, column `c0`. -/
def Framebuffer.drawSprite (fb : Framebuffer) (m : Memory) (a r0 c0 n : Nat) : Drawing :=
  (List.range n).foldl (fun d k => d.row (r0 + k) c0 (m.read (a + k))) { fb := fb, collision := false }

/-! ## Raising a fatal condition -/

/-- `raise <Condition>(info)` (R175): `STATUS` records it and nothing else changes. Every meaning raises before its
first write, so the state is the one the fetch phase left. -/
def raise (s : State) (reason : Fatal) : State := s.setStatus (.halted reason)

/-! ## The phases of a step around execute -/

/-- The fetch (R84): no result when `PC` > 4094; else `IR` receives the word at `PC` and `PC` advances by 2. -/
def fetch (s : State) : Option State :=
  if s.pc.toNat > 4094 then none else some ((s.setIr (s.mem.readWord s.pc.toNat)).advancePc)

/-- A timer after the tick: down by 1, floored at zero (R87). -/
def tickTimer (b : Byte) : Byte := if b = 0#8 then 0#8 else b - 1#8

/-- The tick of both timers (R87). -/
def State.tick (s : State) : State := (s.setDt (tickTimer s.dt)).setSt (tickTimer s.st)

/-- The host and the random source present their next values, each free (R81, R82; log entries 1 and 2). -/
def State.presentInputs (s : State) : State :=
  s.setInputs (Config.keyInput s.inputs) (Config.randomInput s.inputs) (s.inputs + 1)

/-- What follows the execute phase: a completed step ticks the timers (R87) and the ports receive the values of the
next step; a step that halted ends as it is (R175, log entry 8). -/
def finishStep (s : State) : State :=
  match s.status with
  | .running => s.tick.presentInputs
  | .halted _ => s

/-! ## Reset with a ROM, and the host's ports -/

/-- The address the ROM is loaded at (R3, R202). -/
def romBase : Nat := 0x200

/-- The longest ROM reset is defined for (R203). -/
def maxRomLength : Nat := 3584

/-- Reset with a ROM: zero fill, font, then byte `i` of the ROM at 0x200 + `i` (R200, R202). A longer ROM than 3584
bytes is refused (R203, decision D21). -/
def State.resetWith (rom : List Byte) : Option State :=
  if rom.length ≤ maxRomLength then some (State.reset.setMem (Memory.writeBytes State.reset.mem romBase rom)) else none

/-- The reset input applied to a machine (R80, R200): the whole state is discarded; the input ports are the host's
and are not driven by it (R21). -/
def hostReset (s : State) (rom : List Byte) : Option State :=
  (State.resetWith rom).map fun t => t.setInputs s.key s.rnd s.inputs

/-- The host sets `KEY` between two steps (R81). -/
def hostSetKey (s : State) (key : BitVec 16) : State := s.setInputs key s.rnd s.inputs

/-- The diagnostic port (R184). -/
structure Diagnostic where
  v : Vector Byte 16
  pc : Word
  i : Word
  sp : Fin 17
  ir : Word
deriving DecidableEq, Repr

/-- What the host reads at the diagnostic port (R184). -/
def diagnosticPort (s : State) : Diagnostic := { v := s.v, pc := s.pc, i := s.i, sp := s.sp, ir := s.ir }

/-- What the host reads at the framebuffer port: pixel (r, c) (R183). -/
def framebufferPort (s : State) (r c : Nat) : Bool := s.fb.pixel r c

/-- What the host reads at the status port: the result of the last step (R90). -/
def statusPort (s : State) : Status := s.status

end Sys2Proof.Machine
end

