-- ==== Sys2Proof/Machine/Operands.lean ====
section
/-! DEFINITION. The operand forms (spec/30_encoding.md R63): immediates as they stand, register operands, addresses
and the block "bytes at `I`, `I + 1`, ..." with its bound (spec/20_memory.md R46). -/

namespace Sys2Proof.Machine

/-- `zext_16(nnn)` (R63). -/
def nnnOperand (nnn : Addr12) : Word := nnn.setWidth 16

/-- `zext_16(V[x])` (R63). -/
def wideOperand (s : State) (x : Nibble) : Word := (s.readV x).setWidth 16

/-- The row count `n` (R63). -/
def rowCount (n : Nibble) : Nat := n.toNat

/-- The index of the last register of a block (R63). -/
def lastRegister (x : Nibble) : Nat := x.toNat

/-- The address of the block at `I`, in unbounded arithmetic (R46). -/
def blockBase (s : State) : Nat := s.i.toNat

/-- Whether all of `length` bytes at `I` exist; a block of none always does (R46, decision D6). -/
def blockFits (s : State) (length : Nat) : Bool := length == 0 || blockBase s + length ≤ memSize

/-- The start column of a sprite, `V[x] mod 64` (R151). -/
def startColumn (s : State) (x : Nibble) : Nat := (s.readV x).toNat % 64

/-- The start row of a sprite, `V[y] mod 32` (R151). -/
def startRow (s : State) (y : Nibble) : Nat := (s.readV y).toNat % 32

/-- The address of the font character a register names: the whole byte is used (R142). -/
def fontAddress (s : State) (x : Nibble) : Word := BitVec.ofNat 16 (fontBase + 5 * (s.readV x).toNat)

/-- The three decimal digits of a byte, most significant first (R143). -/
def bcdDigits (v : Byte) : List Byte :=
  [BitVec.ofNat 8 (v.toNat / 100), BitVec.ofNat 8 (v.toNat / 10 % 10), BitVec.ofNat 8 (v.toNat % 10)]

/-- The registers `V[0]` to `V[x]`, in order (R144). -/
def blockRegisters (s : State) (x : Nibble) : List Byte :=
  (List.range (lastRegister x + 1)).map fun k => s.readV (BitVec.ofNat 4 k)

/-- The loop of `Fx65`: `V[k] <- MemRead(I + k, 1)` for the first `count` registers, ascending (R145). -/
def loadRegisters (s : State) (count : Nat) : State :=
  (List.range count).foldl (fun t k => t.writeV (BitVec.ofNat 4 k) (t.mem.read (blockBase t + k))) s

/-- The key a register names, when it is one of the sixteen (R160, decision D7). -/
def keyOperand (s : State) (x : Nibble) : Option Nat :=
  if (s.readV x).toNat > 15 then none else some (s.readV x).toNat

/-- `KEY[k]` (R21). -/
def keyPressed (s : State) (k : Nat) : Bool := s.key.getLsbD k

/-- The smallest pressed key, if any (R162). -/
def lowestPressedKey (s : State) : Option Nat := (List.range 16).find? (keyPressed s)

end Sys2Proof.Machine
end

