-- ==== Sys2Proof/Machine/Flags.lean ====
section
/-! DEFINITION. Every value an instruction gives `VF` as a flag (spec/10_state.md R11), and the order in which flag and
result are written (spec/43_alu.md R120). -/

namespace Sys2Proof.Machine

/-- A flag is the whole byte 0x00 or 0x01 (R11). -/
def flagByte (b : Bool) : Byte := if b then 0x01#8 else 0x00#8

/-- Carry out of `a + b` (R127). -/
def carryFlag (a b : Byte) : Byte := flagByte (decide (a.toNat + b.toNat > 255))

/-- Strict unsigned greater-than (R128, R130). -/
def greaterFlag (a b : Byte) : Byte := flagByte (decide (a.toNat > b.toNat))

/-- The bit shifted out to the right, `a & 1` (R129). -/
def lowBitFlag (a : Byte) : Byte := a &&& 0x01#8

/-- The bit shifted out to the left, `(a >> 7) & 1` (R131). -/
def highBitFlag (a : Byte) : Byte := (a >>> 7) &&& 0x01#8

/-- The collision flag of `Dxyn` (R151). -/
def collisionFlag (d : Drawing) : Byte := flagByte d.collision

/-- `VF <- flag`, then `V[x] <- result`, both computed by the caller from the operands before any write (R120,
conflict C2, decision D13). -/
def writeFlagThenResult (s : State) (x : Nibble) (flag result : Byte) : State :=
  (s.writeV vf flag).writeV x result

end Sys2Proof.Machine
end

