-- ==== Sys2Proof/Machine/Alu.lean ====
section
/-! DEFINITION. Register load, ALU and random instructions (spec/43_alu.md R120 to R134). -/

namespace Sys2Proof.Machine

/-- `6xkk` (R121). -/
def execLdImm (x : Nibble) (kk : Byte) (s : State) : Result := .next (s.writeV x kk)

/-- `7xkk` (R122): modulo 256, no flag. -/
def execAddImm (x : Nibble) (kk : Byte) (s : State) : Result := .next (s.writeV x (s.readV x + kk))

/-- `8xy0` (R123). -/
def execLdReg (x y : Nibble) (s : State) : Result := .next (s.writeV x (s.readV y))

/-- `8xy1` (R124): `VF` is left as it was. -/
def execOr (x y : Nibble) (s : State) : Result := .next (s.writeV x (s.readV x ||| s.readV y))

/-- `8xy2` (R125): `VF` is left as it was. -/
def execAnd (x y : Nibble) (s : State) : Result := .next (s.writeV x (s.readV x &&& s.readV y))

/-- `8xy3` (R126): `VF` is left as it was. -/
def execXor (x y : Nibble) (s : State) : Result := .next (s.writeV x (s.readV x ^^^ s.readV y))

/-- `8xy4` (R127). -/
def execAddReg (x y : Nibble) (s : State) : Result :=
  let a := s.readV x
  let b := s.readV y
  .next (writeFlagThenResult s x (carryFlag a b) (a + b))

/-- `8xy5` (R128). -/
def execSub (x y : Nibble) (s : State) : Result :=
  let a := s.readV x
  let b := s.readV y
  .next (writeFlagThenResult s x (greaterFlag a b) (a - b))

/-- `8xy6` (R129): `V[x]` in place; the `y` field selects no operand. -/
def execShr (x _y : Nibble) (s : State) : Result :=
  let a := s.readV x
  .next (writeFlagThenResult s x (lowBitFlag a) (a >>> 1))

/-- `8xy7` (R130). -/
def execSubn (x y : Nibble) (s : State) : Result :=
  let a := s.readV x
  let b := s.readV y
  .next (writeFlagThenResult s x (greaterFlag b a) (b - a))

/-- `8xyE` (R131): `V[x]` in place; the `y` field selects no operand. -/
def execShl (x _y : Nibble) (s : State) : Result :=
  let a := s.readV x
  .next (writeFlagThenResult s x (highBitFlag a) (a <<< 1))

/-- `Cxkk` (R132): the byte at the random port, masked. -/
def execRnd (x : Nibble) (kk : Byte) (s : State) : Result := .next (s.writeV x (s.rnd &&& kk))

end Sys2Proof.Machine
end

