-- ==== Sys2Proof/Machine/Control.lean ====
section
/-! DEFINITION. Control transfer and the stack controller (spec/41_control_transfer.md R100 to R105). `PC` is A + 2
when a meaning runs (spec/00_scope.md R8). -/

namespace Sys2Proof.Machine

/-- `00EE` (R100): return; StackUnderflow on an empty stack (R172). -/
def execRet (s : State) : Result :=
  match s.pop with
  | some (target, t) => .next (t.setPc target)
  | none => .next (raise s (.stackUnderflow s.ir))

/-- `1nnn` (R101): absolute jump. -/
def execJp (nnn : Addr12) (s : State) : Result := .next (s.setPc (nnnOperand nnn))

/-- `2nnn` (R102): push the advanced `PC`, then jump; StackOverflow on a full stack (R173). -/
def execCall (nnn : Addr12) (s : State) : Result :=
  match s.push s.pc with
  | some t => .next (t.setPc (nnnOperand nnn))
  | none => .next (raise s (.stackOverflow s.ir))

/-- `Bnnn` (R103): jump relative to the advanced `PC`; no register is read. -/
def execJprel (nnn : Addr12) (s : State) : Result := .next (s.setPc (s.pc + nnnOperand nnn))

end Sys2Proof.Machine
end

