-- ==== Sys2Proof/Machine/IndexMemory.lean ====
section
/-! DEFINITION. Index register and memory instructions (spec/44_index_memory.md R140 to R146). The three that access
memory check the whole range before any write (spec/20_memory.md R46) and leave `I` as it was (decision D15). -/

namespace Sys2Proof.Machine

/-- The fatal condition of an access through `I` past address 4095 (R170, R174). -/
def blockOutOfBounds (s : State) (access : MemAccess) : Fatal := .outOfBounds (.mem access s.i)

/-- `Annn` (R140). -/
def execLdI (nnn : Addr12) (s : State) : Result := .next (s.setI (nnnOperand nnn))

/-- `Fx1E` (R141): modulo 65536, no flag. -/
def execAddI (x : Nibble) (s : State) : Result := .next (s.setI (s.i + wideOperand s x))

/-- `Fx29` (R142). -/
def execLdF (x : Nibble) (s : State) : Result := .next (s.setI (fontAddress s x))

/-- `Fx33` (R143). -/
def execLdB (x : Nibble) (s : State) : Result :=
  if blockFits s 3 then .next (s.setMem (s.mem.writeBytes (blockBase s) (bcdDigits (s.readV x))))
  else .next (raise s (blockOutOfBounds s .fx33))

/-- `Fx55` (R144). -/
def execStRegs (x : Nibble) (s : State) : Result :=
  if blockFits s (lastRegister x + 1) then .next (s.setMem (s.mem.writeBytes (blockBase s) (blockRegisters s x)))
  else .next (raise s (blockOutOfBounds s .fx55))

/-- `Fx65` (R145). -/
def execLdRegs (x : Nibble) (s : State) : Result :=
  if blockFits s (lastRegister x + 1) then .next (loadRegisters s (lastRegister x + 1))
  else .next (raise s (blockOutOfBounds s .fx65))

end Sys2Proof.Machine
end

