-- ==== Sys2Proof/Machine/Display.lean ====
section
/-! DEFINITION. Display instructions (spec/45_display.md R150 to R154). -/

namespace Sys2Proof.Machine

/-- `00E0` (R150). -/
def execCls (s : State) : Result := .next (s.setFb Framebuffer.clear)

/-- `Dxyn` (R151): coordinates are read first, the whole sprite range is checked, the sprite is drawn, and `VF`
receives the collision flag last and always (decision D14). -/
def execDrw (x y n : Nibble) (s : State) : Result :=
  if blockFits s (rowCount n) then
    let d := s.fb.drawSprite s.mem (blockBase s) (startRow s y) (startColumn s x) (rowCount n)
    .next ((s.setFb d.fb).writeV vf (collisionFlag d))
  else .next (raise s (blockOutOfBounds s .dxyn))

end Sys2Proof.Machine
end

