-- ==== Sys2Proof/Machine/Skips.lean ====
section
/-! DEFINITION. The conditional skips on registers (spec/42_skips.md R110 to R114). -/

namespace Sys2Proof.Machine

/-- A skip adds 2 to the advanced `PC` when its condition holds; the skipped word is not looked at (R114). -/
def skipIf (condition : Bool) (s : State) : State := if condition then s.advancePc else s

/-- `3xkk` (R110). -/
def execSeImm (x : Nibble) (kk : Byte) (s : State) : Result := .next (skipIf (s.readV x == kk) s)

/-- `4xkk` (R111). -/
def execSneImm (x : Nibble) (kk : Byte) (s : State) : Result := .next (skipIf (s.readV x != kk) s)

/-- `5xy0` (R112). -/
def execSeReg (x y : Nibble) (s : State) : Result := .next (skipIf (s.readV x == s.readV y) s)

/-- `9xy0` (R113). -/
def execSneReg (x y : Nibble) (s : State) : Result := .next (skipIf (s.readV x != s.readV y) s)

end Sys2Proof.Machine
end

