-- ==== Sys2Proof/Machine/KeypadTimers.lean ====
section
/-! DEFINITION. Keypad and timer instructions (spec/46_keypad_timers.md R160 to R166). The tick of the same step
follows the meaning (spec/40_step_cycle.md R87) and is not part of it. -/

namespace Sys2Proof.Machine

/-- The fatal condition of a key number above 15 (R170, decision D7). -/
def keyOutOfBounds (s : State) (x : Nibble) : Fatal := .outOfBounds (.key (s.readV x))

/-- `Ex9E` (R160). -/
def execSkp (x : Nibble) (s : State) : Result :=
  match keyOperand s x with
  | some k => .next (skipIf (keyPressed s k) s)
  | none => .next (raise s (keyOutOfBounds s x))

/-- `ExA1` (R161). -/
def execSknp (x : Nibble) (s : State) : Result :=
  match keyOperand s x with
  | some k => .next (skipIf (!keyPressed s k) s)
  | none => .next (raise s (keyOutOfBounds s x))

/-- `Fx0A` (R162): the lowest pressed key, or back to A so that the instruction runs again. -/
def execLdVxK (x : Nibble) (s : State) : Result :=
  match lowestPressedKey s with
  | some k => .next (s.writeV x (BitVec.ofNat 8 k))
  | none => .next (s.setPc (s.pc - 2#16))

/-- `Fx07` (R163): the value before this step's tick. -/
def execLdVxDt (x : Nibble) (s : State) : Result := .next (s.writeV x s.dt)

/-- `Fx15` (R164). -/
def execLdDtVx (x : Nibble) (s : State) : Result := .next (s.setDt (s.readV x))

/-- `Fx18` (R165). -/
def execLdStVx (x : Nibble) (s : State) : Result := .next (s.setSt (s.readV x))

end Sys2Proof.Machine
end

