-- ==== Sys2Proof/Machine/Cycle.lean ====
section
/-! DEFINITION. The order of the phases of a step (spec/40_step_cycle.md R88), and the placing of an instruction where
the next fetch reads it. -/

namespace Sys2Proof.Machine

/-- Decode and execute (R85, R86) from the state the fetch left, and what follows them (R87). -/
def decodeAndExecute (f : State) : Result :=
  match decode f.ir with
  | .error _ => .next (raise f (.decodeError f.ir))
  | .ok i =>
    match exec i f with
    | .next t => .next (finishStep t)
    | .fault e => .fault e
    | .refused e => .refused e

/-- The whole step (R88): gate (R83), fetch (R84), and the phases after it. -/
def cycle (s : State) : Result :=
  match s.status with
  | .halted _ => .next s
  | .running =>
    match fetch s with
    | none => .next (raise s (.outOfBounds (.fetch s.pc)))
    | some f => decodeAndExecute f

/-- `s` with a word stored at `PC` and `PC + 1`, most significant byte first (R43); a `PC` that no fetch reaches (R84)
leaves the state as it is. -/
def placeWord (s : State) (word : Word) : State :=
  if s.pc.toNat > 4094 then s
  else s.setMem (s.mem.writeBytes s.pc.toNat [highByte word, lowByte word])

end Sys2Proof.Machine
end

