-- ==== Sys2Proof/Safety.lean ====
section
/-! DEFINITION. The terms claims are stated in: a safe run (spec/60_exceptions.md R176), what an operation leaves
unchanged, the invariant of every reachable state (spec/10_state.md R28), reachability, and the pixels a sprite
covers (spec/45_display.md R151). -/

namespace Sys2Proof.Machine

/-- A machine that has met no fatal condition: the postcondition R176 asks of a correct program. -/
abbrev Safe (s : State) : Prop := s.status = .running

/-- The parts of the state, one for each field. -/
inductive Part where
  | v | i | pc | mem | stack | sp | dt | st | fb | ir | status | key | rnd | inputs
deriving DecidableEq, Repr

/-- The part is the same in `s` and `t`; memory is compared by reading every byte. -/
def Part.same (s t : State) : Part → Prop
  | .v => t.v = s.v
  | .i => t.i = s.i
  | .pc => t.pc = s.pc
  | .mem => ∀ a, t.mem.read a = s.mem.read a
  | .stack => t.stack = s.stack
  | .sp => t.sp = s.sp
  | .dt => t.dt = s.dt
  | .st => t.st = s.st
  | .fb => t.fb = s.fb
  | .ir => t.ir = s.ir
  | .status => t.status = s.status
  | .key => t.key = s.key
  | .rnd => t.rnd = s.rnd
  | .inputs => t.inputs = s.inputs

/-- The frame of an operation from `s` to `t`: every part is the same but those listed. -/
def State.unchangedBut (s : State) (changed : List Part) (t : State) : Prop :=
  ∀ p, p ∉ changed → p.same s t

/-- Every general register is the same but those listed. -/
def State.registersBut (s : State) (changed : List Nibble) (t : State) : Prop :=
  ∀ k, k ∉ changed → t.readV k = s.readV k

/-- The word at `PC`, which the next fetch reads (R84). -/
def State.nextWord (s : State) : Word := s.mem.readWord s.pc.toNat

/-- `s` is Running with a `PC` the fetch accepts, and the word there is instruction `i` (R83 to R85). -/
def State.aboutToRun (s : State) (i : Instr) : Prop :=
  s.status = .running ∧ s.pc.toNat ≤ 4094 ∧ decode s.nextWord = .ok i

/-- The state the execute phase starts from: `IR` holds the word at `PC`, and `PC` is A + 2 (R84). -/
def State.atExecute (s : State) : State := (s.setIr s.nextWord).setPc (s.pc + 2#16)

/-- What holds in every reachable state (R15, R28), with the canonical form of memory; the ranges of `SP`, of the
registers and of the pixels are carried by their types. -/
def State.Inv (s : State) : Prop :=
  s.mem.wf ∧ s.pc.toNat ≤ 8191 ∧
    ∀ k : Fin 16, k.val < s.sp.val → 2 ≤ (s.stack.get k).toNat ∧ (s.stack.get k).toNat ≤ 4096

/-- The states a machine can be in: after a reset with some ROM, after a step, after the host set `KEY`. -/
inductive Reachable : State → Prop where
  | reset (rom : List Byte) (s : State) : State.resetWith rom = some s → Reachable s
  | step (s t : State) : Reachable s → Machine.step s = .next t → Reachable t
  | setKey (s : State) (key : BitVec 16) : Reachable s → Reachable (hostSetKey s key)
  | resetAgain (s t : State) (rom : List Byte) : Reachable s → hostReset s rom = some t → Reachable t

/-- A set bit of the sprite `Dxyn` draws in `s` lands on pixel (r, c) of the screen: sprite row `r - r0` is byte
`MEM[I + r - r0]`, sprite column `c - c0` its bit `7 - (c - c0)`, and nothing wraps (R151 to R153). -/
def spriteCovers (s : State) (x y n : Nibble) (r c : Nat) : Prop :=
  let r0 := (s.readV y).toNat % 32
  let c0 := (s.readV x).toNat % 64
  r < 32 ∧ c < 64 ∧ r0 ≤ r ∧ r < r0 + n.toNat ∧ c0 ≤ c ∧ c < c0 + 8 ∧
    (s.mem.read (s.i.toNat + (r - r0))).getLsbD (7 - (c - c0)) = true

end Sys2Proof.Machine
end

