-- ==== Sys2Proof/Certificates/Slice0/Obligations.lean ====
section
/-! DEFINITION. The statements about the machine, each formalising rules of the spec or resting on the sections its
docstring names. `s` is any state, reachable or not, unless a premise says otherwise. In a statement about `exec`,
`PC` is A + 2, as the fetch left it (spec/00_scope.md R8). -/

open Sys2Proof Sys2Proof.Machine

/-! ## Encoding and decoding -/

/-- R64: a word selects the one row whose mask and match it meets, and that row's instruction is what the decoder
reads; a word that no row selects is read as nothing and raises DecodeError. -/
def Obligations.WordSelectsItsOpcodeRow : Prop :=
  (∀ w : Word, selectedMnemonics w =
    match decode w with
    | .ok i => [i.mnemonic]
    | .error _ => []) ∧
  ∀ s : State, s.status = .running → s.pc.toNat ≤ 4094 → selectedMnemonics s.nextWord = [] →
    ∃ t, step s = .next t ∧ t.status = .halted (.decodeError s.nextWord)

/-- R61: where each field lies in the word and in the two bytes at `PC` and `PC + 1`. -/
def Obligations.FieldsAreTheirDigits : Prop :=
  (∀ w : Word,
    (fieldOp w).toNat = w.toNat / 4096 ∧ (fieldX w).toNat = w.toNat / 256 % 16 ∧
    (fieldY w).toNat = w.toNat / 16 % 16 ∧ (fieldN w).toNat = w.toNat % 16 ∧
    (fieldKk w).toNat = w.toNat % 256 ∧ (fieldNnn w).toNat = w.toNat % 4096) ∧
  ∀ high low : Byte,
    (fieldOp (wordOfBytes high low)).toNat = high.toNat / 16 ∧
    (fieldX (wordOfBytes high low)).toNat = high.toNat % 16 ∧
    (fieldY (wordOfBytes high low)).toNat = low.toNat / 16 ∧
    (fieldN (wordOfBytes high low)).toNat = low.toNat % 16 ∧
    fieldKk (wordOfBytes high low) = low ∧
    (fieldNnn (wordOfBytes high low)).toNat = high.toNat % 16 * 256 + low.toNat

/-- R61, R62, R64: decoding an encoded instruction gives it back, as a word and as bytes, for every instruction. -/
def Obligations.DecodeOfEncode : Prop :=
  ∀ i : Instr, decode (encode i) = .ok i ∧ ∀ rest, decodeBytes (encodeBytes i ++ rest) = .ok (i, rest)

/-- R61, R62, R64: an instruction read from a word encodes to that word, so no bit of a legal word is dropped. For
`8xy6` and `8xyE`, whose sixteen values of `y` R68 calls the same instruction, it holds because the model's `Instr` keeps
the `y` they ignore: the model's choice (log entry 14). -/
def Obligations.EncodeOfDecode : Prop :=
  ∀ (w : Word) (i : Instr), decode w = .ok i → encode i = w

/-- A few words written out from the patterns of R64, and what they stand for. -/
def Obligations.SampleWordsDecode : Prop :=
  decode 0x00E0#16 = .ok .cls ∧ decode 0x1234#16 = .ok (.jp 0x234#12) ∧
  decode 0x3210#16 = .ok (.seImm 0x2#4 0x10#8) ∧ decode 0x801E#16 = .ok (.shl 0x0#4 0x1#4) ∧
  decode 0xD125#16 = .ok (.drw 0x1#4 0x2#4 0x5#4) ∧ decode 0xF255#16 = .ok (.stRegs 0x2#4) ∧
  decode 0xE1A1#16 = .ok (.sknp 0x1#4) ∧ decode 0x0000#16 = .error (.illegal0nnn 0x0000#16)

/-! ## The step -/

/-- R43 (the byte at `PC` is the more significant one), R45 (whatever the parity of `PC`: the spec's decision D12) and
R84 (`IR` loaded, `PC` advanced by 2, nothing else; the bound 4094 is decision D5). Both decisions: log entry 10. -/
def Obligations.FetchReadsBigEndianWord : Prop :=
  ∀ s : State, s.pc.toNat ≤ 4094 → ∃ f, fetch s = some f ∧
    f.ir.toNat = (s.mem.read s.pc.toNat).toNat * 256 + (s.mem.read (s.pc.toNat + 1)).toNat ∧
    f.pc.toNat = s.pc.toNat + 2 ∧ s.unchangedBut [.ir, .pc] f

/-- R85, R86, R88: a Running machine whose next word is instruction `i` runs exactly `i`, from the state with `IR`
loaded and `PC` advanced, and then does what follows the execute phase. -/
def Obligations.StepRunsDecodedInstruction : Prop :=
  ∀ (s : State) (i : Instr), s.aboutToRun i →
    step s =
      match exec i s.atExecute with
      | .next t => .next (finishStep t)
      | .fault e => .fault e
      | .refused e => .refused e

/-- Decision D9 of the spec (its R83 and R176): a step in Halted changes no state at all. That the model's input ports
stay too is the model's choice (log entry 8). -/
def Obligations.HaltedStepChangesNothing : Prop :=
  ∀ (s : State) (c : Fatal), s.status = .halted c → step s = .next s

/-- Decision D5 of the spec: a step that begins with `PC` above 4094 raises OutOfBounds (Fetch, `PC`) and changes
nothing else; `PC` and `IR` keep their values. That the model's input ports stay too is the model's choice (log
entry 8). -/
def Obligations.FetchPastEndHalts : Prop :=
  ∀ s : State, s.status = .running → 4094 < s.pc.toNat →
    ∃ t, step s = .next t ∧ t.status = .halted (.outOfBounds (.fetch s.pc)) ∧ s.unchangedBut [.status] t

/-- R171, and the spec's decision D8 for what the halting step leaves alone: an illegal word halts with `IR` holding
it and `PC` past it; nothing else changes and no timer ticks. That the model's input ports stay too is the model's
choice (log entry 8). -/
def Obligations.IllegalWordHalts : Prop :=
  ∀ s : State, s.status = .running → s.pc.toNat ≤ 4094 → wellFormedWord s.nextWord = false →
    ∃ t, step s = .next t ∧ t.status = .halted (.decodeError s.nextWord) ∧ t.ir = s.nextWord ∧
      t.pc.toNat = s.pc.toNat + 2 ∧ s.unchangedBut [.status, .ir, .pc] t

/-- R87, and the spec's decision D8 for the halting step: a step whose execute phase completed ticks both timers once
and changes nothing else but the input ports, which are the host's (log entries 1 and 2); one that halted does not
tick, and leaves the ports too (log entry 8). -/
def Obligations.CompletedStepTicksTimers : Prop :=
  ∀ (s : State) (i : Instr), s.aboutToRun i →
    ∃ u v, exec i s.atExecute = .next u ∧ step s = .next v ∧
      (u.status = .running → v.dt.toNat = u.dt.toNat - 1 ∧ v.st.toNat = u.st.toNat - 1 ∧
        u.unchangedBut [.dt, .st, .key, .rnd, .inputs] v) ∧
      (u.status ≠ .running → v = u)

/-- R88, R90: every step and every execute phase, of every state, answers a next state. That a fatal condition is such
a state, where R176 calls Halted a model's fault outcome, and that nothing faults or is refused, is the model's (log
entry 7). -/
def Obligations.EveryStepAnswersAState : Prop :=
  (∀ s : State, ∃ t, step s = .next t) ∧ ∀ (i : Instr) (s : State), ∃ t, exec i s = .next t

/-! ## Reset -/

/-- R17, R27, R200 (with decision D17 for `I`, `SP`, `FB`, `IR` and `STATUS`): reset with a ROM of at most 3584 bytes
gives exactly the reset values, the ROM from 0x200 on, the font at `FONT_BASE`, and zero everywhere else. -/
def Obligations.ResetValues : Prop :=
  ∀ rom : List Byte, rom.length ≤ 3584 → ∃ s, State.resetWith rom = some s ∧
    (∀ x, s.readV x = 0#8) ∧ s.i = 0#16 ∧ s.pc = 0x0200#16 ∧ (∀ k, s.stack.get k = 0#16) ∧ s.sp = 0 ∧
    s.dt = 0#8 ∧ s.st = 0#8 ∧ (∀ r c, s.fb.pixel r c = false) ∧ s.ir = 0#16 ∧ s.status = .running ∧
    (∀ k, k < rom.length → s.mem.read (0x200 + k) = rom.getD k 0#8) ∧
    (∀ k : Fin 80, s.mem.read (Config.fontBase.val + k.val) = Config.fontData k) ∧
    (∀ a, ¬ (0x200 ≤ a ∧ a < 0x200 + rom.length) →
      ¬ (Config.fontBase.val ≤ a ∧ a < Config.fontBase.val + 80) → s.mem.read a = 0#8)

/-- Decision D21 of the spec: a ROM longer than 3584 bytes never reaches the core. -/
def Obligations.LongRomIsRefused : Prop :=
  ∀ rom : List Byte, 3584 < rom.length → State.resetWith rom = none ∧ ∀ s, hostReset s rom = none

/-- R21, R200 (decision D17 for `KEY`): a reset discards the whole state of the core, whatever it was, and does not
drive the keypad. The frame leaves out the random port and the model's counter: nothing is said of them here (the
model's choice, log entry 11). -/
def Obligations.ResetDiscardsAllButTheInputs : Prop :=
  ∀ (s : State) (rom : List Byte) (r : State), State.resetWith rom = some r →
    ∃ t, hostReset s rom = some t ∧ t.key = s.key ∧ r.unchangedBut [.key, .rnd, .inputs] t

/-! ## Control transfer -/

/-- R100 and R172, with D16 (the popped slot keeps its value) and D8 (a halting step changes nothing else and does
not tick): return to the popped address, or StackUnderflow on the empty stack. That the model's input ports stay in the
halting step too is the model's choice (log entry 8). -/
def Obligations.ReturnPopsStack : Prop :=
  (∀ (s : State) (k : Fin 16), s.sp.val = k.val + 1 →
    ∃ t, exec .ret s = .next t ∧ t.pc = s.stack.get k ∧ t.sp.val = k.val ∧ s.unchangedBut [.pc, .sp] t) ∧
  ∀ s : State, s.sp = 0 →
    ∃ t, exec .ret s = .next t ∧ t.status = .halted (.stackUnderflow s.ir) ∧ s.unchangedBut [.status] t ∧
      finishStep t = t

/-- R101: an absolute jump. -/
def Obligations.JumpIsAbsolute : Prop :=
  ∀ (nnn : Addr12) (s : State), ∃ t, exec (.jp nnn) s = .next t ∧ t.pc.toNat = nnn.toNat ∧ s.unchangedBut [.pc] t

/-- R102 and R173, with D8: push the advanced `PC` and jump, or StackOverflow on the full stack. That the model's input
ports stay in the halting step too is the model's choice (log entry 8). -/
def Obligations.CallPushesReturnAddress : Prop :=
  (∀ (nnn : Addr12) (s : State) (k : Fin 16), s.sp.val = k.val →
    ∃ t, exec (.call nnn) s = .next t ∧ t.stack.get k = s.pc ∧ t.sp.val = k.val + 1 ∧ t.pc.toNat = nnn.toNat ∧
      (∀ j, j ≠ k → t.stack.get j = s.stack.get j) ∧ s.unchangedBut [.pc, .sp, .stack] t) ∧
  ∀ (nnn : Addr12) (s : State), s.sp = 16 →
    ∃ t, exec (.call nnn) s = .next t ∧ t.status = .halted (.stackOverflow s.ir) ∧ s.unchangedBut [.status] t ∧
      finishStep t = t

/-- R103: the target is the advanced `PC` plus nnn, modulo 65536 (decision D11); no general register plays a part. -/
def Obligations.RelativeJumpAddsToPc : Prop :=
  ∀ (nnn : Addr12) (s : State), ∃ t, exec (.jprel nnn) s = .next t ∧
    t.pc.toNat = (s.pc.toNat + nnn.toNat) % 65536 ∧ s.unchangedBut [.pc] t

/-- R104 (the spec's derivation): a return at the depth a call left, with the call's slot untouched, resumes after the
call and restores `SP`. -/
def Obligations.ReturnAfterCallResumes : Prop :=
  ∀ (nnn : Addr12) (s t u : State) (k : Fin 16), s.sp.val = k.val → exec (.call nnn) s = .next t →
    u.sp = t.sp → u.stack.get k = t.stack.get k →
    ∃ w, exec .ret u = .next w ∧ w.pc = s.pc ∧ w.sp = s.sp

/-- R91: a step of a jump to its own address changes nothing but `IR`, the timers, which count down, and the input
ports, which are the host's (log entries 1 and 2). -/
def Obligations.JumpToItselfOnlyTicks : Prop :=
  ∀ (s : State) (nnn : Addr12), s.aboutToRun (.jp nnn) → nnn.toNat = s.pc.toNat →
    ∃ t, step s = .next t ∧ t.ir = s.nextWord ∧ t.dt.toNat = s.dt.toNat - 1 ∧ t.st.toNat = s.st.toNat - 1 ∧
      s.unchangedBut [.ir, .dt, .st, .key, .rnd, .inputs] t

/-! ## Skips on registers -/

/-- R110 to R113: the four skips pass one more instruction exactly when their condition holds, and change nothing but
`PC`. -/
def Obligations.RegisterSkips : Prop :=
  (∀ (x : Nibble) (kk : Byte) (s : State), ∃ t, exec (.seImm x kk) s = .next t ∧
    t.pc.toNat = (s.pc.toNat + if s.readV x = kk then 2 else 0) % 65536 ∧ s.unchangedBut [.pc] t) ∧
  (∀ (x : Nibble) (kk : Byte) (s : State), ∃ t, exec (.sneImm x kk) s = .next t ∧
    t.pc.toNat = (s.pc.toNat + if s.readV x = kk then 0 else 2) % 65536 ∧ s.unchangedBut [.pc] t) ∧
  (∀ (x y : Nibble) (s : State), ∃ t, exec (.seReg x y) s = .next t ∧
    t.pc.toNat = (s.pc.toNat + if s.readV x = s.readV y then 2 else 0) % 65536 ∧ s.unchangedBut [.pc] t) ∧
  (∀ (x y : Nibble) (s : State), ∃ t, exec (.sneReg x y) s = .next t ∧
    t.pc.toNat = (s.pc.toNat + if s.readV x = s.readV y then 0 else 2) % 65536 ∧ s.unchangedBut [.pc] t)

/-! ## Register load, ALU and random -/

/-- R121, R123: the destination receives the immediate or the other register, and nothing else changes. -/
def Obligations.LoadsAndMoves : Prop :=
  (∀ (x : Nibble) (kk : Byte) (s : State), ∃ t, exec (.ldImm x kk) s = .next t ∧
    t.readV x = kk ∧ s.registersBut [x] t ∧ s.unchangedBut [.v] t) ∧
  (∀ (x y : Nibble) (s : State), ∃ t, exec (.ldReg x y) s = .next t ∧
    t.readV x = s.readV y ∧ s.registersBut [x] t ∧ s.unchangedBut [.v] t)

/-- R122: the immediate is added modulo 256 and no flag is written. -/
def Obligations.AddImmediateWrapsWithoutFlag : Prop :=
  ∀ (x : Nibble) (kk : Byte) (s : State), ∃ t, exec (.addImm x kk) s = .next t ∧
    (t.readV x).toNat = ((s.readV x).toNat + kk.toNat) % 256 ∧ s.registersBut [x] t ∧ s.unchangedBut [.v] t

/-- R124 to R126: bitwise on 8 bits, and `VF` is left as it was unless it is the destination. -/
def Obligations.LogicLeavesFlagAlone : Prop :=
  (∀ (x y : Nibble) (s : State), ∃ t, exec (.or x y) s = .next t ∧
    (∀ b, (t.readV x).getLsbD b = ((s.readV x).getLsbD b || (s.readV y).getLsbD b)) ∧
    s.registersBut [x] t ∧ s.unchangedBut [.v] t) ∧
  (∀ (x y : Nibble) (s : State), ∃ t, exec (.and x y) s = .next t ∧
    (∀ b, (t.readV x).getLsbD b = ((s.readV x).getLsbD b && (s.readV y).getLsbD b)) ∧
    s.registersBut [x] t ∧ s.unchangedBut [.v] t) ∧
  (∀ (x y : Nibble) (s : State), ∃ t, exec (.xor x y) s = .next t ∧
    (∀ b, (t.readV x).getLsbD b = ((s.readV x).getLsbD b ^^ (s.readV y).getLsbD b)) ∧
    s.registersBut [x] t ∧ s.unchangedBut [.v] t)

/-- R127; the clause for `x` = 0xF, where the result remains and the flag is lost, is the spec's decision D13. -/
def Obligations.AddReportsCarry : Prop :=
  ∀ (x y : Nibble) (s : State), ∃ t, exec (.addReg x y) s = .next t ∧
    (t.readV x).toNat = ((s.readV x).toNat + (s.readV y).toNat) % 256 ∧
    (x ≠ 0xF#4 → (t.readV 0xF#4).toNat = if (s.readV x).toNat + (s.readV y).toNat > 255 then 1 else 0) ∧
    s.registersBut [x, 0xF#4] t ∧ s.unchangedBut [.v] t

/-- R128; the clause for `x` = 0xF is the spec's decision D13. -/
def Obligations.SubtractReportsStrictGreater : Prop :=
  ∀ (x y : Nibble) (s : State), ∃ t, exec (.sub x y) s = .next t ∧
    (t.readV x).toNat = ((s.readV x).toNat + 256 - (s.readV y).toNat) % 256 ∧
    (x ≠ 0xF#4 → (t.readV 0xF#4).toNat = if (s.readV x).toNat > (s.readV y).toNat then 1 else 0) ∧
    s.registersBut [x, 0xF#4] t ∧ s.unchangedBut [.v] t

/-- R130; the clause for `x` = 0xF is the spec's decision D13. -/
def Obligations.ReverseSubtractReportsStrictGreater : Prop :=
  ∀ (x y : Nibble) (s : State), ∃ t, exec (.subn x y) s = .next t ∧
    (t.readV x).toNat = ((s.readV y).toNat + 256 - (s.readV x).toNat) % 256 ∧
    (x ≠ 0xF#4 → (t.readV 0xF#4).toNat = if (s.readV y).toNat > (s.readV x).toNat then 1 else 0) ∧
    s.registersBut [x, 0xF#4] t ∧ s.unchangedBut [.v] t

/-- R129, R131, R68: `V[x]` is shifted in place by one, `VF` receives the bit shifted out, and the `y` field selects
no operand; the clause for `x` = 0xF is the spec's decision D13. -/
def Obligations.ShiftsReportTheLostBit : Prop :=
  (∀ (x y : Nibble) (s : State), ∃ t, exec (.shr x y) s = .next t ∧
    (t.readV x).toNat = (s.readV x).toNat / 2 ∧
    (x ≠ 0xF#4 → (t.readV 0xF#4).toNat = (s.readV x).toNat % 2) ∧
    s.registersBut [x, 0xF#4] t ∧ s.unchangedBut [.v] t) ∧
  (∀ (x y : Nibble) (s : State), ∃ t, exec (.shl x y) s = .next t ∧
    (t.readV x).toNat = (s.readV x).toNat * 2 % 256 ∧
    (x ≠ 0xF#4 → (t.readV 0xF#4).toNat = (s.readV x).toNat / 128) ∧
    s.registersBut [x, 0xF#4] t ∧ s.unchangedBut [.v] t) ∧
  ∀ (x y z : Nibble) (s : State), exec (.shr x y) s = exec (.shr x z) s ∧ exec (.shl x y) s = exec (.shl x z) s

/-- R132: `V[x]` receives the random byte masked by kk, whatever the byte at the port is, and its old value plays no
part. -/
def Obligations.RandomByteIsMasked : Prop :=
  ∀ (x : Nibble) (kk : Byte) (s : State), ∃ t, exec (.rnd x kk) s = .next t ∧
    (∀ b, (t.readV x).getLsbD b = (s.rnd.getLsbD b && kk.getLsbD b)) ∧ (kk = 0#8 → t.readV x = 0#8) ∧
    s.registersBut [x] t ∧ s.unchangedBut [.v] t

/-! ## Index register and memory -/

/-- R140: `I` receives the address, zero-extended. -/
def Obligations.LoadIndex : Prop :=
  ∀ (nnn : Addr12) (s : State), ∃ t, exec (.ldI nnn) s = .next t ∧ t.i.toNat = nnn.toNat ∧ s.unchangedBut [.i] t

/-- R141: modulo 65536, and no flag. -/
def Obligations.AddIndexWrapsWithoutFlag : Prop :=
  ∀ (x : Nibble) (s : State), ∃ t, exec (.addI x) s = .next t ∧
    t.i.toNat = (s.i.toNat + (s.readV x).toNat) % 65536 ∧ s.unchangedBut [.i] t

/-- R142: the whole byte is used, whatever `FONT_BASE` is (decision D18); the modulus (decision D11) is never reached and
the result is a valid address, at most 1707. -/
def Obligations.FontAddressUsesWholeByte : Prop :=
  ∀ (x : Nibble) (s : State), ∃ t, exec (.ldF x) s = .next t ∧
    t.i.toNat = (Config.fontBase.val + 5 * (s.readV x).toNat) % 65536 ∧
    t.i.toNat = Config.fontBase.val + 5 * (s.readV x).toNat ∧ t.i.toNat ≤ 1707 ∧ s.unchangedBut [.i] t

/-- R143 within bounds; `I` unchanged is decision D15, the bound decision D6. The premise on memory is its canonical
form, the model's (log entry 5), which every step keeps. -/
def Obligations.StoresThreeDecimalDigits : Prop :=
  ∀ (x : Nibble) (s : State), s.mem.wf → s.i.toNat ≤ 4093 →
    ∃ t, exec (.ldB x) s = .next t ∧
      (t.mem.read s.i.toNat).toNat = (s.readV x).toNat / 100 ∧
      (t.mem.read (s.i.toNat + 1)).toNat = (s.readV x).toNat / 10 % 10 ∧
      (t.mem.read (s.i.toNat + 2)).toNat = (s.readV x).toNat % 10 ∧
      (∀ a, ¬ (s.i.toNat ≤ a ∧ a ≤ s.i.toNat + 2) → t.mem.read a = s.mem.read a) ∧ s.unchangedBut [.mem] t

/-- R144 within bounds; `I` unchanged is decision D15, the bound decision D6. The premise on memory is its canonical
form, the model's (log entry 5), which every step keeps. -/
def Obligations.StoresRegisterBlock : Prop :=
  ∀ (x : Nibble) (s : State), s.mem.wf → s.i.toNat + x.toNat ≤ 4095 →
    ∃ t, exec (.stRegs x) s = .next t ∧
      (∀ k : Nibble, k.toNat ≤ x.toNat → t.mem.read (s.i.toNat + k.toNat) = s.readV k) ∧
      (∀ a, ¬ (s.i.toNat ≤ a ∧ a ≤ s.i.toNat + x.toNat) → t.mem.read a = s.mem.read a) ∧ s.unchangedBut [.mem] t

/-- R145 within bounds; `I` unchanged is decision D15, the bound decision D6. -/
def Obligations.LoadsRegisterBlock : Prop :=
  ∀ (x : Nibble) (s : State), s.i.toNat + x.toNat ≤ 4095 →
    ∃ t, exec (.ldRegs x) s = .next t ∧
      (∀ k : Nibble, t.readV k = if k.toNat ≤ x.toNat then s.mem.read (s.i.toNat + k.toNat) else s.readV k) ∧
      s.unchangedBut [.v] t

/-- Decisions D6 and D8 of the spec: an access through `I` that would pass address 4095 raises OutOfBounds
(instruction, `I`), writes nothing and does not tick; `Dxyn` accesses memory when n is at least 1. That the model's
input ports stay in the halting step too is the model's choice (log entry 8). -/
def Obligations.BlockAccessPastEndHalts : Prop :=
  (∀ (x : Nibble) (s : State), 4095 < s.i.toNat + 2 →
    ∃ t, exec (.ldB x) s = .next t ∧ t.status = .halted (.outOfBounds (.mem .fx33 s.i)) ∧
      s.unchangedBut [.status] t ∧ finishStep t = t) ∧
  (∀ (x : Nibble) (s : State), 4095 < s.i.toNat + x.toNat →
    ∃ t, exec (.stRegs x) s = .next t ∧ t.status = .halted (.outOfBounds (.mem .fx55 s.i)) ∧
      s.unchangedBut [.status] t ∧ finishStep t = t) ∧
  (∀ (x : Nibble) (s : State), 4095 < s.i.toNat + x.toNat →
    ∃ t, exec (.ldRegs x) s = .next t ∧ t.status = .halted (.outOfBounds (.mem .fx65 s.i)) ∧
      s.unchangedBut [.status] t ∧ finishStep t = t) ∧
  (∀ (x y n : Nibble) (s : State), 1 ≤ n.toNat → 4096 < s.i.toNat + n.toNat →
    ∃ t, exec (.drw x y n) s = .next t ∧ t.status = .halted (.outOfBounds (.mem .dxyn s.i)) ∧
      s.unchangedBut [.status] t ∧ finishStep t = t)

/-- R146 (the spec's derivation): a load of a stored block restores the stored registers, whatever the registers are
when it runs. The premise on memory is its canonical form, which every step keeps. -/
def Obligations.LoadAfterStoreRestores : Prop :=
  ∀ (x : Nibble) (s t u : State), s.mem.wf → s.i.toNat + x.toNat ≤ 4095 → exec (.stRegs x) s = .next t → u.i = s.i →
    (∀ a, s.i.toNat ≤ a → a ≤ s.i.toNat + x.toNat → u.mem.read a = t.mem.read a) →
    ∃ w, exec (.ldRegs x) u = .next w ∧ ∀ k : Nibble, k.toNat ≤ x.toNat → w.readV k = s.readV k

/-- R53 (the spec's derivation): stored bytes are what a later fetch at their address reads, at once. The premise on
memory is its canonical form, which every step keeps. -/
def Obligations.StoredBytesAreFetched : Prop :=
  ∀ (x k : Nibble) (s t u : State), s.mem.wf → s.i.toNat + x.toNat ≤ 4095 → exec (.stRegs x) s = .next t →
    u.mem = t.mem → u.pc.toNat = s.i.toNat + k.toNat → k.toNat + 1 ≤ x.toNat →
    ∃ f, fetch u = some f ∧ f.ir = wordOfBytes (s.readV k) (s.readV (k + 1#4))

/-! ## Display -/

/-- R150: every pixel is clear, whatever they were, and `VF` is not written. -/
def Obligations.ClearScreenClearsEveryPixel : Prop :=
  ∀ s : State, ∃ t, exec .cls s = .next t ∧ (∀ r c, t.fb.pixel r c = false) ∧ s.unchangedBut [.fb] t

/-- R151, with D6 (the range), D14 (`VF` written last and always, n = 0) and D22 (bit 7 leftmost, bytes downward):
exactly the pixels the sprite's set bits land on are inverted, and `VF` says whether one of them was set before. -/
def Obligations.DrawInvertsCoveredPixels : Prop :=
  ∀ (x y n : Nibble) (s : State), n = 0#4 ∨ s.i.toNat + n.toNat ≤ 4096 →
    ∃ t, exec (.drw x y n) s = .next t ∧
      (∀ r c, spriteCovers s x y n r c → t.fb.pixel r c = !s.fb.pixel r c) ∧
      (∀ r c, ¬ spriteCovers s x y n r c → t.fb.pixel r c = s.fb.pixel r c) ∧
      ((∃ r c, spriteCovers s x y n r c ∧ s.fb.pixel r c = true) → t.readV 0xF#4 = 1#8) ∧
      ((¬ ∃ r c, spriteCovers s x y n r c ∧ s.fb.pixel r c = true) → t.readV 0xF#4 = 0#8) ∧
      s.registersBut [0xF#4] t ∧ s.unchangedBut [.v, .fb] t

/-- R154 (the spec's derivation): the same draw twice, at the same place from the same bytes, restores the
framebuffer, and its second `VF` is 1 exactly when a covered pixel was clear before the first. Which pixels are covered
is the spec's decision D22, that `VF` is always written D14, the range D6 (log entry 10). -/
def Obligations.DrawTwiceRestores : Prop :=
  ∀ (x y n : Nibble) (s t u : State), n = 0#4 ∨ s.i.toNat + n.toNat ≤ 4096 → exec (.drw x y n) s = .next t →
    u.fb = t.fb → u.i = s.i → u.readV x = s.readV x → u.readV y = s.readV y →
    (∀ a, u.mem.read a = s.mem.read a) →
    ∃ w, exec (.drw x y n) u = .next w ∧ w.fb = s.fb ∧
      (w.readV 0xF#4 = 1#8 ↔ ∃ r c, spriteCovers s x y n r c ∧ s.fb.pixel r c = false)

/-! ## Keypad and timers -/

/-- R160, R161 for the sixteen keys (the bound is decision D7): skip on the level of the key as presented to this
step. -/
def Obligations.KeySkips : Prop :=
  (∀ (x : Nibble) (s : State), (s.readV x).toNat ≤ 15 → ∃ t, exec (.skp x) s = .next t ∧
    t.pc.toNat = (s.pc.toNat + if s.key.getLsbD (s.readV x).toNat = true then 2 else 0) % 65536 ∧
    s.unchangedBut [.pc] t) ∧
  (∀ (x : Nibble) (s : State), (s.readV x).toNat ≤ 15 → ∃ t, exec (.sknp x) s = .next t ∧
    t.pc.toNat = (s.pc.toNat + if s.key.getLsbD (s.readV x).toNat = true then 0 else 2) % 65536 ∧
    s.unchangedBut [.pc] t)

/-- Decisions D7 and D8 of the spec: a key number above 15 raises OutOfBounds (Key, `V[x]`), changes nothing else and
does not tick. That the model's input ports stay in the halting step too is the model's choice (log entry 8). -/
def Obligations.KeyNumberAbove15Halts : Prop :=
  (∀ (x : Nibble) (s : State), 15 < (s.readV x).toNat →
    ∃ t, exec (.skp x) s = .next t ∧ t.status = .halted (.outOfBounds (.key (s.readV x))) ∧
      s.unchangedBut [.status] t ∧ finishStep t = t) ∧
  (∀ (x : Nibble) (s : State), 15 < (s.readV x).toNat →
    ∃ t, exec (.sknp x) s = .next t ∧ t.status = .halted (.outOfBounds (.key (s.readV x))) ∧
      s.unchangedBut [.status] t ∧ finishStep t = t)

/-- R162: with no key pressed `PC` goes back to A, the step completes and the timers tick; with keys pressed the
lowest one is read and `PC` stays A + 2. -/
def Obligations.KeyWaitPollsEachStep : Prop :=
  (∀ (x : Nibble) (s : State), s.key = 0#16 →
    ∃ t, exec (.ldVxK x) s = .next t ∧ t.pc.toNat = (s.pc.toNat + 65536 - 2) % 65536 ∧ s.unchangedBut [.pc] t) ∧
  (∀ (x : Nibble) (s : State) (k : Nat), k < 16 → s.key.getLsbD k = true → (∀ j, j < k → s.key.getLsbD j = false) →
    ∃ t, exec (.ldVxK x) s = .next t ∧ (t.readV x).toNat = k ∧ s.registersBut [x] t ∧ s.unchangedBut [.v] t) ∧
  (∀ (x : Nibble) (s : State), s.aboutToRun (.ldVxK x) → s.key = 0#16 →
    ∃ t, step s = .next t ∧ t.ir = s.nextWord ∧ t.dt.toNat = s.dt.toNat - 1 ∧ t.st.toNat = s.st.toNat - 1 ∧
      s.unchangedBut [.ir, .dt, .st, .key, .rnd, .inputs] t)

/-- R163: the register receives the timer as it is before this step's tick. -/
def Obligations.ReadsDelayTimerBeforeTick : Prop :=
  (∀ (x : Nibble) (s : State), ∃ t, exec (.ldVxDt x) s = .next t ∧
    t.readV x = s.dt ∧ s.registersBut [x] t ∧ s.unchangedBut [.v] t) ∧
  ∀ (x : Nibble) (s : State), s.aboutToRun (.ldVxDt x) →
    ∃ t, step s = .next t ∧ t.readV x = s.dt ∧ t.dt.toNat = s.dt.toNat - 1

/-- R164, R165: the timer receives the register, and the tick of the same step follows. -/
def Obligations.SetsTimersBeforeTick : Prop :=
  (∀ (x : Nibble) (s : State), ∃ t, exec (.ldDtVx x) s = .next t ∧ t.dt = s.readV x ∧ s.unchangedBut [.dt] t) ∧
  (∀ (x : Nibble) (s : State), ∃ t, exec (.ldStVx x) s = .next t ∧ t.st = s.readV x ∧ s.unchangedBut [.st] t) ∧
  (∀ (x : Nibble) (s : State), s.aboutToRun (.ldDtVx x) →
    ∃ t, step s = .next t ∧ t.dt.toNat = (s.readV x).toNat - 1) ∧
  (∀ (x : Nibble) (s : State), s.aboutToRun (.ldStVx x) →
    ∃ t, step s = .next t ∧ t.st.toNat = (s.readV x).toNat - 1)

/-- R166 (the spec's derivation): in a step that completes, a timer that the instruction does not write counts down
by one, floored at zero, whatever the instruction. -/
def Obligations.OtherInstructionsCountTimersDown : Prop :=
  ∀ (s t : State) (i : Instr), s.aboutToRun i → step s = .next t → t.status = .running →
    (i.mnemonic ≠ "LD_DT_VX" → t.dt.toNat = s.dt.toNat - 1) ∧
    (i.mnemonic ≠ "LD_ST_VX" → t.st.toNat = s.st.toNat - 1)

/-! ## The whole machine -/

/-- R177 (the spec's derivation), R170: an instruction has at most one fatal condition, it is its own, and it arises
exactly in the case R170 gives; every other instruction leaves the machine Running. The OutOfBounds cases are the spec's
decisions D6 (memory) and D7 (key), the recorded info is D8 (log entry 10). -/
def Obligations.OnlyOwnFatalConditionIsRaised : Prop :=
  ∀ (i : Instr) (s t : State), s.status = .running → exec i s = .next t →
    t.status =
      match i with
      | .ret => if s.sp.val = 0 then .halted (.stackUnderflow s.ir) else .running
      | .call _ => if s.sp.val = 16 then .halted (.stackOverflow s.ir) else .running
      | .drw _ _ n =>
        if 1 ≤ n.toNat ∧ 4095 < s.i.toNat + n.toNat - 1 then .halted (.outOfBounds (.mem .dxyn s.i)) else .running
      | .ldB _ => if 4095 < s.i.toNat + 2 then .halted (.outOfBounds (.mem .fx33 s.i)) else .running
      | .stRegs x => if 4095 < s.i.toNat + x.toNat then .halted (.outOfBounds (.mem .fx55 s.i)) else .running
      | .ldRegs x => if 4095 < s.i.toNat + x.toNat then .halted (.outOfBounds (.mem .fx65 s.i)) else .running
      | .skp x => if 15 < (s.readV x).toNat then .halted (.outOfBounds (.key (s.readV x))) else .running
      | .sknp x => if 15 < (s.readV x).toNat then .halted (.outOfBounds (.key (s.readV x))) else .running
      | _ => .running

/-- R175 (decision D8): a halting step is precise, whatever the condition: nothing but `STATUS`, `IR` and `PC`
changes, the last two as the fetch left them, or not at all when the fetch itself was refused. That the model's input
ports stay too is the model's choice (log entry 8). -/
def Obligations.HaltingStepIsPrecise : Prop :=
  ∀ (s t : State) (c : Fatal), s.status = .running → step s = .next t → t.status = .halted c →
    s.unchangedBut [.status, .ir, .pc] t ∧
    (s.pc.toNat ≤ 4094 → t.ir = s.nextWord ∧ t.pc.toNat = s.pc.toNat + 2) ∧
    (4094 < s.pc.toNat → t.ir = s.ir ∧ t.pc = s.pc)

/-- R12, R14, R16, R18 to R20, R22 to R24, R26, R81 and the instruction rules: which instructions may change which part
of the state, the general registers apart (RegistersChangeOnlyAsDestinationOrFlag says it of them); every other
instruction leaves it alone. That `RET` leaves the stack is the spec's decision D16, that `Fx33`, `Fx55` and `Fx65` leave
`I` is D15, and which of the instructions that access memory or a key may halt is D6, D7 and D8 (log entry 10). -/
def Obligations.EachPartHasItsWriters : Prop :=
  ∀ (i : Instr) (s t : State), exec i s = .next t →
    (i.mnemonic ∉ ["RET", "JP", "CALL", "JPREL", "SE_IMM", "SNE_IMM", "SE_REG", "SNE_REG", "SKP", "SKNP", "LD_VX_K"] →
      t.pc = s.pc) ∧
    (i.mnemonic ∉ ["LD_I", "ADD_I", "LD_F"] → t.i = s.i) ∧
    (i.mnemonic ∉ ["RET", "CALL"] → t.sp = s.sp) ∧
    (i.mnemonic ≠ "CALL" → t.stack = s.stack) ∧
    (i.mnemonic ≠ "LD_DT_VX" → t.dt = s.dt) ∧
    (i.mnemonic ≠ "LD_ST_VX" → t.st = s.st) ∧
    (i.mnemonic ∉ ["CLS", "DRW"] → t.fb = s.fb) ∧
    (i.mnemonic ∉ ["LD_B", "ST_REGS"] → t.mem = s.mem) ∧
    (i.mnemonic ∉ ["RET", "CALL", "DRW", "LD_B", "ST_REGS", "LD_REGS", "SKP", "SKNP"] → t.status = s.status) ∧
    s.unchangedBut [.v, .i, .pc, .mem, .stack, .sp, .dt, .st, .fb, .status] t

/-- R11, R134: a general register changes only as an instruction's destination, as the flag of one of the six
flag-writing instructions, or as one of the block `Fx65` loads. -/
def Obligations.RegistersChangeOnlyAsDestinationOrFlag : Prop :=
  ∀ (i : Instr) (s t : State) (k : Nibble), exec i s = .next t → t.readV k ≠ s.readV k →
    match i with
    | .ldImm x _ | .addImm x _ | .rnd x _ => k = x
    | .ldReg x _ | .or x _ | .and x _ | .xor x _ => k = x
    | .addReg x _ | .sub x _ | .shr x _ | .subn x _ | .shl x _ => k = x ∨ k = 0xF#4
    | .drw _ _ _ => k = 0xF#4
    | .ldVxDt x | .ldVxK x => k = x
    | .ldRegs x => k.toNat ≤ x.toNat
    | _ => False

/-- R21 (only `Ex9E`, `ExA1` and `Fx0A` read `KEY`): any other instruction runs the same whatever `KEY` is. R82 (a step
that executes any other instruction than `Cxkk` ignores `rnd`): it runs the same whatever `rnd` is. -/
def Obligations.InputsReachOnlyTheirInstructions : Prop :=
  (∀ (i : Instr) (s t : State) (key : BitVec 16), i.mnemonic ∉ ["SKP", "SKNP", "LD_VX_K"] → exec i s = .next t →
    exec i (s.setInputs key s.rnd s.inputs) = .next (t.setInputs key t.rnd t.inputs)) ∧
  (∀ (i : Instr) (s t : State) (rnd : Byte), i.mnemonic ≠ "RND" → exec i s = .next t →
    exec i (s.setInputs s.key rnd s.inputs) = .next (t.setInputs t.key rnd t.inputs))

/-- The canonical form of memory is the model's (log entry 5): two memories in it that read alike everywhere are the
same list, so equal memories are equal data. -/
def Obligations.CanonicalMemoriesThatReadAlikeAreEqual : Prop :=
  ∀ m n : Memory, m.wf → n.wf → (∀ a, m.read a = n.read a) → m = n

/-- R15 and R28 at reset, for the empty ROM and for every ROM reset accepts. The clause of `Inv` that memory is canonical
is no rule of the spec: the form is the model's (log entry 5). -/
def Obligations.ResetMeetsTheInvariant : Prop :=
  State.reset.Inv ∧ ∀ (rom : List Byte) (s : State), State.resetWith rom = some s → s.Inv

/-- R15, R28 (the spec's derivation): every step keeps `PC` ≤ 8191 and the stack holding addresses 2 to 4096 below `SP`,
from every state that has them and canonical memory. That memory stays canonical is no rule of the spec: the form is the
model's (log entry 5). -/
def Obligations.EveryStepKeepsTheInvariant : Prop :=
  ∀ s t : State, s.Inv → step s = .next t → t.Inv

/-- R15, R28 (the spec's derivation): in every state reachable by steps and the host's moves, from reset with any ROM,
`SP` is at most 16 (which its type carries), `PC` at most 8191, and the entries below `SP` are 2 to 4096. -/
def Obligations.ReachableStatesKeepTheirRanges : Prop :=
  ∀ s : State, Reachable s → s.sp.val ≤ 16 ∧ s.pc.toNat ≤ 8191 ∧
    ∀ k : Fin 16, k.val < s.sp.val → 2 ≤ (s.stack.get k).toNat ∧ (s.stack.get k).toNat ≤ 4096
end

