-- ==== Sys2Proof/Laws/Memory.lean ====
section
/-! SUPPORT. The laws of memory: a read after a write (spec/20_memory.md R42, R44), consecutive writes, and the
canonical form, which every operation keeps. -/

namespace Sys2Proof.Machine

theorem resetByte_of_ge {a : Nat} (h : 0x200 ≤ a) : resetByte a = 0#8 := by
  simp [resetByte, Nat.not_lt.mpr h]

/-- The head of a list of cells written by `cell` in front of cells at other addresses. -/
theorem Memory.read_cell_append (rest : Memory) (a k : Nat) (v : Byte)
    (h : Memory.read rest a = resetByte a) :
    Memory.read (Memory.write.cell a v ++ rest) k = if k = a then v else Memory.read rest k := by
  unfold Memory.write.cell
  by_cases hv : v = resetByte a <;> by_cases hk : k = a
  · subst hk; simp [hv, h]
  · simp [hv, hk]
  · subst hk; simp [hv, Memory.read]
  · simp [hv, hk, Memory.read]

/-- An address below every listed one reads as the reset image. -/
theorem Memory.read_of_below (m : Memory) (a : Nat) (h : ∀ c ∈ m, a < c.1) : m.read a = resetByte a := by
  induction m with
  | nil => rfl
  | cons c rest ih =>
    have hc := h c (List.mem_cons_self ..)
    simp only [Memory.read, Nat.ne_of_lt hc, if_false]
    exact ih fun d hd => h d (List.mem_cons_of_mem _ hd)

/-- The addresses listed after a write: those listed before and perhaps the one written. -/
theorem Memory.mem_write {m : Memory} {a : Nat} {v : Byte} {c : Host.Cell} (h : c ∈ m.write a v) :
    c ∈ m ∨ (c = (a, v) ∧ v ≠ resetByte a) := by
  have cellCase : ∀ {c : Host.Cell}, c ∈ Memory.write.cell a v → c = (a, v) ∧ v ≠ resetByte a := by
    intro c hc
    unfold Memory.write.cell at hc
    split at hc <;> simp_all
  induction m with
  | nil => exact .inr (cellCase h)
  | cons d rest ih =>
    obtain ⟨b, w⟩ := d
    unfold Memory.write at h
    split at h
    · rcases List.mem_append.mp h with h | h
      · exact .inr (cellCase h)
      · exact .inl h
    · split at h
      · rcases List.mem_append.mp h with h | h
        · exact .inr (cellCase h)
        · exact .inl (List.mem_cons_of_mem _ h)
      · rcases List.mem_cons.mp h with h | h
        · exact .inl (h ▸ List.mem_cons_self ..)
        · rcases ih h with h | h
          · exact .inl (List.mem_cons_of_mem _ h)
          · exact .inr h

/-- R44: a write sets its byte and changes no other, on memory in canonical order. -/
theorem Memory.read_write (m : Memory) (a k : Nat) (v : Byte) (sorted : m.Pairwise (fun c d => c.1 < d.1)) :
    (m.write a v).read k = if k = a then v else m.read k := by
  induction m with
  | nil => simpa [Memory.write] using Memory.read_cell_append [] a k v rfl
  | cons d rest ih =>
    obtain ⟨b, w⟩ := d
    obtain ⟨above, sortedRest⟩ := List.pairwise_cons.mp sorted
    unfold Memory.write
    split
    · next below =>
      apply Memory.read_cell_append
      apply Memory.read_of_below
      intro c hc
      rcases List.mem_cons.mp hc with rfl | hc
      · exact below
      · exact Nat.lt_trans below (above c hc)
    · split
      · next _ same =>
        subst same
        rw [Memory.read_cell_append rest a k v (Memory.read_of_below rest a above)]
        by_cases hk : k = a <;> simp [hk, Memory.read]
      · next notBelow notSame =>
        by_cases hk : k = b
        · subst hk
          simp [Memory.read, Ne.symm notSame]
        · simp only [Memory.read, hk, if_false, ih sortedRest]

/-- A write keeps the canonical form. -/
theorem Memory.write_wf {m : Memory} {a : Nat} (v : Byte) (h : m.wf) (bound : a < memSize) : (m.write a v).wf := by
  refine ⟨?_, ?_⟩
  · have sorted := h.1
    clear h
    have cellSorted : ∀ rest : Memory, rest.Pairwise (fun c d => c.1 < d.1) → (∀ c ∈ rest, a < c.1) →
        (Memory.write.cell a v ++ rest).Pairwise (fun c d => c.1 < d.1) := by
      intro rest hs hb
      unfold Memory.write.cell
      split
      · simpa using hs
      · exact List.pairwise_cons.mpr ⟨hb, hs⟩
    induction m with
    | nil => simpa [Memory.write] using cellSorted [] List.Pairwise.nil (by simp)
    | cons d rest ih =>
      obtain ⟨b, w⟩ := d
      obtain ⟨above, sortedRest⟩ := List.pairwise_cons.mp sorted
      unfold Memory.write
      split
      · next below =>
        apply cellSorted _ sorted
        intro c hc
        rcases List.mem_cons.mp hc with rfl | hc
        · exact below
        · exact Nat.lt_trans below (above c hc)
      · split
        · next _ same => subst same; exact cellSorted _ sortedRest above
        · next notBelow notSame =>
          refine List.pairwise_cons.mpr ⟨?_, ih sortedRest⟩
          intro c hc
          rcases Memory.mem_write hc with hc | ⟨rfl, _⟩
          · exact above c hc
          · show b < a
            omega
  · intro c hc
    rcases Memory.mem_write hc with hc | ⟨rfl, hv⟩
    · exact h.2 c hc
    · exact ⟨bound, hv⟩

/-- Consecutive writes keep the canonical form. -/
theorem Memory.writeBytes_wf {m : Memory} {a : Nat} (bytes : List Byte) (h : m.wf)
    (bound : a + bytes.length ≤ memSize) : (m.writeBytes a bytes).wf := by
  induction bytes generalizing m a with
  | nil => exact h
  | cons b bytes ih =>
    simp only [List.length_cons] at bound
    exact ih (Memory.write_wf b h (by omega)) (by omega)

/-- Consecutive writes set exactly their own bytes. -/
theorem Memory.read_writeBytes {m : Memory} {a : Nat} (bytes : List Byte) (k : Nat) (h : m.wf)
    (bound : a + bytes.length ≤ memSize) :
    (m.writeBytes a bytes).read k =
      if a ≤ k ∧ k < a + bytes.length then bytes.getD (k - a) 0#8 else m.read k := by
  induction bytes generalizing m a with
  | nil =>
    have : ¬ (a ≤ k ∧ k < a) := by omega
    simp [Memory.writeBytes, this]
  | cons b bytes ih =>
    simp only [List.length_cons] at bound ⊢
    rw [Memory.writeBytes, ih (Memory.write_wf b h (by omega)) (by omega), Memory.read_write m a k b h.1]
    by_cases hk : k = a
    · subst hk
      simp
    · by_cases hin : a + 1 ≤ k ∧ k < a + 1 + bytes.length
      · have : a ≤ k ∧ k < a + (bytes.length + 1) := by omega
        rw [if_pos hin, if_pos this, show k - a = (k - (a + 1)) + 1 by omega]
        simp
      · have : ¬ (a ≤ k ∧ k < a + (bytes.length + 1)) := by omega
        rw [if_neg hin, if_neg hk, if_neg this]

theorem reset_mem_wf : State.reset.mem.wf := ⟨List.Pairwise.nil, by intro c hc; cases hc⟩

end Sys2Proof.Machine
end

