-- ==== Sys2Proof/Laws/Ops.lean ====
section
/-! SUPPORT. For each shared operation, what it can do, said once: fetch, push, pop, raise, the tick, what follows the
execute phase, flag and result, skips, the framebuffer and the register block. -/

namespace Sys2Proof.Machine

/-! ## Raising, the fetch and the end of a step -/

@[simp] theorem raise_eq (s : State) (c : Fatal) : raise s c = s.setStatus (.halted c) := rfl

/-- The fetch succeeds exactly up to `PC` = 4094, with the state `atExecute` (R84). -/
theorem fetch_of_le {s : State} (h : s.pc.toNat ≤ 4094) : fetch s = some s.atExecute := by
  simp [fetch, Nat.not_lt.mpr h, State.atExecute, State.advancePc, State.nextWord]

theorem fetch_of_gt {s : State} (h : 4094 < s.pc.toNat) : fetch s = none := by simp [fetch, h]

@[simp] theorem atExecute_pc (s : State) : s.atExecute.pc = s.pc + 2#16 := rfl
@[simp] theorem atExecute_ir (s : State) : s.atExecute.ir = s.nextWord := rfl
@[simp] theorem atExecute_v (s : State) : s.atExecute.v = s.v := rfl
@[simp] theorem atExecute_i (s : State) : s.atExecute.i = s.i := rfl
@[simp] theorem atExecute_mem (s : State) : s.atExecute.mem = s.mem := rfl
@[simp] theorem atExecute_stack (s : State) : s.atExecute.stack = s.stack := rfl
@[simp] theorem atExecute_sp (s : State) : s.atExecute.sp = s.sp := rfl
@[simp] theorem atExecute_dt (s : State) : s.atExecute.dt = s.dt := rfl
@[simp] theorem atExecute_st (s : State) : s.atExecute.st = s.st := rfl
@[simp] theorem atExecute_fb (s : State) : s.atExecute.fb = s.fb := rfl
@[simp] theorem atExecute_status (s : State) : s.atExecute.status = s.status := rfl
@[simp] theorem atExecute_key (s : State) : s.atExecute.key = s.key := rfl
@[simp] theorem atExecute_rnd (s : State) : s.atExecute.rnd = s.rnd := rfl
@[simp] theorem atExecute_inputs (s : State) : s.atExecute.inputs = s.inputs := rfl
@[simp] theorem atExecute_readV (s : State) (x : Nibble) : s.atExecute.readV x = s.readV x := rfl

/-- The advanced `PC` as a number: the fetch never reaches the modulus (R15). -/
theorem atExecute_pc_toNat {s : State} (h : s.pc.toNat ≤ 4094) : s.atExecute.pc.toNat = s.pc.toNat + 2 := by
  rw [atExecute_pc, BitVec.toNat_add, BitVec.toNat_ofNat]
  omega

/-- A timer's tick as a number: down by 1, floored at zero (R87). -/
theorem tickTimer_toNat (b : Byte) : (tickTimer b).toNat = b.toNat - 1 := by
  unfold tickTimer
  split
  · next h => simp [h]
  · next h =>
    have pos : b.toNat ≠ 0 := fun e => h (BitVec.eq_of_toNat_eq e)
    have := b.isLt
    rw [BitVec.toNat_sub, BitVec.toNat_ofNat]
    omega

theorem finishStep_running {s : State} (h : s.status = .running) : finishStep s = s.tick.presentInputs := by
  simp [finishStep, h]

theorem finishStep_halted {s : State} {c : Fatal} (h : s.status = .halted c) : finishStep s = s := by
  simp [finishStep, h]

@[simp] theorem finishStep_raise (s : State) (c : Fatal) : finishStep (raise s c) = raise s c := rfl

theorem tick_eq (s : State) : s.tick = (s.setDt (tickTimer s.dt)).setSt (tickTimer s.st) := rfl

theorem presentInputs_eq (s : State) :
    s.presentInputs = s.setInputs (Config.keyInput s.inputs) (Config.randomInput s.inputs) (s.inputs + 1) := rfl

/-! ## What a step can do -/

theorem step_of_halted {s : State} {c : Fatal} (h : s.status = .halted c) : step s = .next s := by
  simp [step, cycle, h]

theorem step_of_fetch_refused {s : State} (run : s.status = .running) (h : 4094 < s.pc.toNat) :
    step s = .next (raise s (.outOfBounds (.fetch s.pc))) := by
  simp [step, cycle, run, fetch_of_gt h]

theorem step_of_illegal {s : State} {e : Reject} (run : s.status = .running) (h : s.pc.toNat ≤ 4094)
    (bad : decode s.nextWord = .error e) :
    step s = .next (raise s.atExecute (.decodeError s.nextWord)) := by
  simp [step, cycle, decodeAndExecute, run, fetch_of_le h, bad]

/-! ## The stack -/

/-- A push on a stack that is not full: the slot and `SP` (R102). -/
theorem push_eq {s : State} {w : Word} (h : s.sp.val < 16) :
    s.push w = some (s.setStack (s.stack.set s.sp.val w h) ⟨s.sp.val + 1, Nat.succ_lt_succ h⟩) := by
  simp [State.push, h]

theorem push_full {s : State} {w : Word} (h : s.sp = 16) : s.push w = none := by simp [State.push, h]

/-- A pop from a stack that is not empty: the slot below `SP`, and `SP` alone changes (R100). -/
theorem pop_eq {s : State} (h : 0 < s.sp.val) (below : s.sp.val - 1 < 16) :
    s.pop = some (s.stack[s.sp.val - 1], s.setStack s.stack ⟨s.sp.val - 1, Nat.lt_succ_of_lt below⟩) := by
  simp [State.pop, h]

theorem pop_empty {s : State} (h : s.sp = 0) : s.pop = none := by simp [State.pop, h]

/-! ## Registers and flags -/

theorem flagByte_toNat (b : Bool) : (flagByte b).toNat = if b then 1 else 0 := by cases b <;> rfl

/-- R120: the result remains in `V[x]`; the flag remains in `VF` when `x` is not `VF`; no other register changes. -/
theorem writeFlagThenResult_readV (s : State) (x y : Nibble) (flag result : Byte) :
    (writeFlagThenResult s x flag result).readV y =
      if y = x then result else if y = vf then flag else s.readV y := by
  simp [writeFlagThenResult, State.readV_writeV]

@[simp] theorem writeFlagThenResult_i (s : State) (x : Nibble) (flag result : Byte) :
    (writeFlagThenResult s x flag result).i = s.i := rfl
@[simp] theorem writeFlagThenResult_pc (s : State) (x : Nibble) (flag result : Byte) :
    (writeFlagThenResult s x flag result).pc = s.pc := rfl
@[simp] theorem writeFlagThenResult_mem (s : State) (x : Nibble) (flag result : Byte) :
    (writeFlagThenResult s x flag result).mem = s.mem := rfl
@[simp] theorem writeFlagThenResult_stack (s : State) (x : Nibble) (flag result : Byte) :
    (writeFlagThenResult s x flag result).stack = s.stack := rfl
@[simp] theorem writeFlagThenResult_sp (s : State) (x : Nibble) (flag result : Byte) :
    (writeFlagThenResult s x flag result).sp = s.sp := rfl
@[simp] theorem writeFlagThenResult_dt (s : State) (x : Nibble) (flag result : Byte) :
    (writeFlagThenResult s x flag result).dt = s.dt := rfl
@[simp] theorem writeFlagThenResult_st (s : State) (x : Nibble) (flag result : Byte) :
    (writeFlagThenResult s x flag result).st = s.st := rfl
@[simp] theorem writeFlagThenResult_fb (s : State) (x : Nibble) (flag result : Byte) :
    (writeFlagThenResult s x flag result).fb = s.fb := rfl
@[simp] theorem writeFlagThenResult_ir (s : State) (x : Nibble) (flag result : Byte) :
    (writeFlagThenResult s x flag result).ir = s.ir := rfl
@[simp] theorem writeFlagThenResult_status (s : State) (x : Nibble) (flag result : Byte) :
    (writeFlagThenResult s x flag result).status = s.status := rfl
@[simp] theorem writeFlagThenResult_key (s : State) (x : Nibble) (flag result : Byte) :
    (writeFlagThenResult s x flag result).key = s.key := rfl
@[simp] theorem writeFlagThenResult_rnd (s : State) (x : Nibble) (flag result : Byte) :
    (writeFlagThenResult s x flag result).rnd = s.rnd := rfl
@[simp] theorem writeFlagThenResult_inputs (s : State) (x : Nibble) (flag result : Byte) :
    (writeFlagThenResult s x flag result).inputs = s.inputs := rfl

/-- R120's writes touch the general registers alone. -/
theorem writeFlagThenResult_frame (s : State) (x : Nibble) (flag result : Byte) :
    s.unchangedBut [.v] (writeFlagThenResult s x flag result) := by
  intro p hp
  cases p <;> simp_all [Part.same]

@[simp] theorem skipIf_v (b : Bool) (s : State) : (skipIf b s).v = s.v := by cases b <;> rfl
@[simp] theorem skipIf_i (b : Bool) (s : State) : (skipIf b s).i = s.i := by cases b <;> rfl
@[simp] theorem skipIf_mem (b : Bool) (s : State) : (skipIf b s).mem = s.mem := by cases b <;> rfl
@[simp] theorem skipIf_stack (b : Bool) (s : State) : (skipIf b s).stack = s.stack := by cases b <;> rfl
@[simp] theorem skipIf_sp (b : Bool) (s : State) : (skipIf b s).sp = s.sp := by cases b <;> rfl
@[simp] theorem skipIf_dt (b : Bool) (s : State) : (skipIf b s).dt = s.dt := by cases b <;> rfl
@[simp] theorem skipIf_st (b : Bool) (s : State) : (skipIf b s).st = s.st := by cases b <;> rfl
@[simp] theorem skipIf_fb (b : Bool) (s : State) : (skipIf b s).fb = s.fb := by cases b <;> rfl
@[simp] theorem skipIf_ir (b : Bool) (s : State) : (skipIf b s).ir = s.ir := by cases b <;> rfl
@[simp] theorem skipIf_status (b : Bool) (s : State) : (skipIf b s).status = s.status := by cases b <;> rfl
@[simp] theorem skipIf_key (b : Bool) (s : State) : (skipIf b s).key = s.key := by cases b <;> rfl
@[simp] theorem skipIf_rnd (b : Bool) (s : State) : (skipIf b s).rnd = s.rnd := by cases b <;> rfl
@[simp] theorem skipIf_inputs (b : Bool) (s : State) : (skipIf b s).inputs = s.inputs := by cases b <;> rfl

theorem skipIf_pc (b : Bool) (s : State) : (skipIf b s).pc = if b then s.pc + 2#16 else s.pc := by
  cases b <;> simp [skipIf, State.advancePc]

theorem skipIf_frame (b : Bool) (s : State) : s.unchangedBut [.pc] (skipIf b s) := by
  intro p hp
  cases p <;> simp_all [Part.same]

/-! ## Operands -/

@[simp] theorem nnnOperand_toNat (nnn : Addr12) : (nnnOperand nnn).toNat = nnn.toNat := by
  have := nnn.isLt
  simp only [nnnOperand, BitVec.toNat_setWidth]
  omega

@[simp] theorem wideOperand_toNat (s : State) (x : Nibble) : (wideOperand s x).toNat = (s.readV x).toNat := by
  have := (s.readV x).isLt
  simp only [wideOperand, BitVec.toNat_setWidth]
  omega

/-- R142: the font address as a number; the modulus is never reached (decision D11). -/
theorem fontAddress_toNat (s : State) (x : Nibble) :
    (fontAddress s x).toNat = Config.fontBase.val + 5 * (s.readV x).toNat := by
  have := Config.fontBase.isLt
  have := (s.readV x).isLt
  simp only [fontAddress, fontBase, BitVec.toNat_ofNat]
  omega

/-- R43 as a number. -/
theorem wordOfBytes_toNat (high low : Byte) : (wordOfBytes high low).toNat = high.toNat * 256 + low.toNat := by
  have := low.isLt
  rw [wordOfBytes, BitVec.toNat_append, ← Nat.shiftLeft_add_eq_or_of_lt low.isLt, Nat.shiftLeft_eq]

theorem resetWith_of_le {rom : List Byte} (h : rom.length ≤ 3584) :
    State.resetWith rom = some (State.reset.setMem (Memory.writeBytes State.reset.mem romBase rom)) := by
  rw [State.resetWith]
  exact if_pos h

theorem resetWith_of_gt {rom : List Byte} (h : 3584 < rom.length) : State.resetWith rom = none := by
  rw [State.resetWith]
  exact if_neg (Nat.not_le.mpr h)

/-! ## The block at `I` -/

theorem blockFits_iff (s : State) (n : Nat) : blockFits s n = true ↔ n = 0 ∨ s.i.toNat + n ≤ 4096 := by
  unfold blockFits
  rw [Bool.or_eq_true, beq_iff_eq, decide_eq_true_iff]
  rfl

@[simp] theorem bcdDigits_length (v : Byte) : (bcdDigits v).length = 3 := rfl

@[simp] theorem blockRegisters_length (s : State) (x : Nibble) : (blockRegisters s x).length = x.toNat + 1 := by
  simp [blockRegisters, lastRegister]

theorem blockRegisters_getD (s : State) (x k : Nibble) (h : k.toNat ≤ x.toNat) :
    (blockRegisters s x).getD k.toNat 0#8 = s.readV k := by
  have : k.toNat < x.toNat + 1 := by omega
  simp [blockRegisters, lastRegister, List.getD, this]

/-- The loop of `Fx65` writes the general registers alone. -/
theorem loadRegisters_eq (s : State) (count : Nat) :
    loadRegisters s count = { s with v := (loadRegisters s count).v } := by
  induction count with
  | zero => rfl
  | succ n ih =>
    simp only [loadRegisters, List.range_succ, List.foldl_append, List.foldl_cons, List.foldl_nil] at ih ⊢
    rw [ih]
    rfl

@[simp] theorem loadRegisters_i (s : State) (count : Nat) : (loadRegisters s count).i = s.i := by
  rw [loadRegisters_eq]
@[simp] theorem loadRegisters_pc (s : State) (count : Nat) : (loadRegisters s count).pc = s.pc := by
  rw [loadRegisters_eq]
@[simp] theorem loadRegisters_mem (s : State) (count : Nat) : (loadRegisters s count).mem = s.mem := by
  rw [loadRegisters_eq]
@[simp] theorem loadRegisters_stack (s : State) (count : Nat) : (loadRegisters s count).stack = s.stack := by
  rw [loadRegisters_eq]
@[simp] theorem loadRegisters_sp (s : State) (count : Nat) : (loadRegisters s count).sp = s.sp := by
  rw [loadRegisters_eq]
@[simp] theorem loadRegisters_dt (s : State) (count : Nat) : (loadRegisters s count).dt = s.dt := by
  rw [loadRegisters_eq]
@[simp] theorem loadRegisters_st (s : State) (count : Nat) : (loadRegisters s count).st = s.st := by
  rw [loadRegisters_eq]
@[simp] theorem loadRegisters_fb (s : State) (count : Nat) : (loadRegisters s count).fb = s.fb := by
  rw [loadRegisters_eq]
@[simp] theorem loadRegisters_ir (s : State) (count : Nat) : (loadRegisters s count).ir = s.ir := by
  rw [loadRegisters_eq]
@[simp] theorem loadRegisters_status (s : State) (count : Nat) : (loadRegisters s count).status = s.status := by
  rw [loadRegisters_eq]
@[simp] theorem loadRegisters_key (s : State) (count : Nat) : (loadRegisters s count).key = s.key := by
  rw [loadRegisters_eq]
@[simp] theorem loadRegisters_rnd (s : State) (count : Nat) : (loadRegisters s count).rnd = s.rnd := by
  rw [loadRegisters_eq]
@[simp] theorem loadRegisters_inputs (s : State) (count : Nat) : (loadRegisters s count).inputs = s.inputs := by
  rw [loadRegisters_eq]

/-- The loop of `Fx65` loads the first `count` registers and leaves the others and everything else (R145). -/
theorem loadRegisters_spec (s : State) (count : Nat) (h : count ≤ 16) :
    (∀ k : Nibble, (loadRegisters s count).readV k =
        if k.toNat < count then s.mem.read (s.i.toNat + k.toNat) else s.readV k) ∧
      s.unchangedBut [.v] (loadRegisters s count) := by
  induction count with
  | zero =>
    refine ⟨by simp [loadRegisters], ?_⟩
    intro p _
    cases p <;> simp [Part.same, loadRegisters]
  | succ n ih =>
    obtain ⟨regs, frame⟩ := ih (by omega)
    have next : loadRegisters s (n + 1) = (loadRegisters s n).writeV (BitVec.ofNat 4 n)
        ((loadRegisters s n).mem.read (blockBase (loadRegisters s n) + n)) := by
      simp [loadRegisters, List.range_succ]
    have sameI : (loadRegisters s n).i = s.i := frame .i (by simp)
    have sameMem : ∀ a, (loadRegisters s n).mem.read a = s.mem.read a := frame .mem (by simp)
    refine ⟨fun k => ?_, ?_⟩
    · rw [next, State.readV_writeV, regs k, sameMem, blockBase, sameI]
      have toNat : (BitVec.ofNat 4 n).toNat = n := by simp; omega
      by_cases hk : k = BitVec.ofNat 4 n
      · have : k.toNat = n := by rw [hk, toNat]
        simp [hk, toNat]
      · have : k.toNat ≠ n := fun e => hk (BitVec.eq_of_toNat_eq (by rw [toNat, e]))
        simp only [hk, if_false]
        split <;> split <;> first | rfl | omega
    · intro p hp
      have := frame p hp
      cases p <;> simp_all [Part.same]

/-! ## The framebuffer -/

@[simp] theorem pixel_clear (r c : Nat) : Framebuffer.clear.pixel r c = false := by
  simp [Framebuffer.pixel, Framebuffer.clear]

/-- A flip inverts its own pixel and no other (R151). -/
theorem pixel_flip (fb : Framebuffer) (r c r' c' : Nat) (hr : r < 32) (hc : c < 64) :
    (fb.flip r c).pixel r' c' = if r' = r ∧ c' = c then !fb.pixel r c else fb.pixel r' c' := by
  by_cases screen : r' < 32 ∧ c' < 64
  · by_cases sameRow : r' = r
    · subst sameRow
      by_cases sameColumn : c' = c
      · subst sameColumn
        simp [Framebuffer.pixel, Framebuffer.flip, hr, hc]
      · simp [Framebuffer.pixel, Framebuffer.flip, hr, hc, screen.2, sameColumn,
          Ne.symm sameColumn]
    · simp [Framebuffer.pixel, Framebuffer.flip, hr, hc, screen.1, screen.2, sameRow, Ne.symm sameRow]
  · have : ¬ (r' = r ∧ c' = c) := by rintro ⟨rfl, rfl⟩; exact screen ⟨hr, hc⟩
    simp [Framebuffer.pixel, screen, this]

/-- Two framebuffers with the same pixels are the same. -/
theorem framebuffer_ext {f g : Framebuffer} (h : ∀ r c, f.pixel r c = g.pixel r c) : f = g := by
  apply Vector.ext
  intro r hr
  apply Vector.ext
  intro c hc
  simpa [Framebuffer.pixel, hr, hc] using h r c

end Sys2Proof.Machine
end

