-- ==== Sys2Proof/Laws/Drawing.lean ====
section
/-! SUPPORT. What the sprite-XOR unit does, said once (spec/45_display.md R151): the loop over rows and columns inverts
exactly the pixels its set bits land on, and reports a collision exactly when one of them was set before. -/

namespace Sys2Proof.Machine

/-- A set bit among the first `q` of byte `b`, drawn from column `c0`, lands on column `c` of the screen. -/
abbrev columnHit (c0 : Nat) (b : Byte) (q c : Nat) : Prop :=
  c < 64 ∧ c0 ≤ c ∧ c < c0 + q ∧ b.getLsbD (7 - (c - c0)) = true

theorem columnHit_succ (c0 : Nat) (b : Byte) (q c : Nat) :
    columnHit c0 b (q + 1) c ↔ columnHit c0 b q c ∨ (c = c0 + q ∧ c < 64 ∧ b.getLsbD (7 - q) = true) := by
  by_cases h : c = c0 + q
  · subst h
    simp [columnHit]
  · have : c < c0 + (q + 1) ↔ c < c0 + q := by omega
    simp [columnHit, h, this]

theorem column_eq (r c0 : Nat) (b : Byte) (d : Drawing) (j : Nat) :
    Drawing.column r c0 b d j = if c0 + j < 64 ∧ b.getLsbD (7 - j) = true then d.hit r (c0 + j) else d := by
  unfold Drawing.column
  by_cases h : c0 + j > 63
  · simp [h, show ¬ (c0 + j < 64) by omega]
  · simp [h, show c0 + j < 64 by omega]

/-- The first `q` columns of a sprite row on a screen row. -/
theorem columns_spec (r c0 : Nat) (b : Byte) (d : Drawing) (q : Nat) (hr : r < 32) :
    (∀ r' c', ((List.range q).foldl (Drawing.column r c0 b) d).fb.pixel r' c' =
        (d.fb.pixel r' c' ^^ decide (r' = r ∧ columnHit c0 b q c'))) ∧
      (((List.range q).foldl (Drawing.column r c0 b) d).collision = true ↔
        d.collision = true ∨ ∃ c, columnHit c0 b q c ∧ d.fb.pixel r c = true) := by
  induction q with
  | zero =>
    have none : ∀ c, ¬ columnHit c0 b 0 c := fun c h => by have := h.2.1; have := h.2.2.1; omega
    simp [none]
  | succ q ih =>
    obtain ⟨pixels, collided⟩ := ih
    rw [List.range_succ, List.foldl_append, List.foldl_cons, List.foldl_nil, column_eq]
    generalize (List.range q).foldl (Drawing.column r c0 b) d = e at pixels collided
    have fresh : ¬ columnHit c0 b q (c0 + q) := fun h => by have := h.2.2.1; omega
    split
    · next lands =>
      refine ⟨fun r' c' => ?_, ?_⟩
      · rw [Drawing.hit, pixel_flip _ _ _ _ _ hr lands.1]
        by_cases same : r' = r ∧ c' = c0 + q
        · obtain ⟨rfl, rfl⟩ := same
          simp [pixels, fresh, columnHit_succ, lands.1, lands.2]
        · have : (r' = r ∧ columnHit c0 b (q + 1) c') ↔ (r' = r ∧ columnHit c0 b q c') := by
            rw [columnHit_succ]
            constructor
            · rintro ⟨e1, h | h⟩
              · exact ⟨e1, h⟩
              · exact absurd ⟨e1, h.1⟩ same
            · rintro ⟨e1, h⟩
              exact ⟨e1, .inl h⟩
          simp only [same, if_false, pixels, this]
      · have here : e.fb.pixel r (c0 + q) = d.fb.pixel r (c0 + q) := by simp [pixels, fresh]
        simp only [Drawing.hit, Bool.or_eq_true, here, collided]
        constructor
        · rintro ((h | ⟨c, h, hp⟩) | h)
          · exact .inl h
          · exact .inr ⟨c, (columnHit_succ ..).mpr (.inl h), hp⟩
          · exact .inr ⟨c0 + q, (columnHit_succ ..).mpr (.inr ⟨rfl, lands⟩), h⟩
        · rintro (h | ⟨c, h, hp⟩)
          · exact .inl (.inl h)
          · rcases (columnHit_succ ..).mp h with h | ⟨rfl, _⟩
            · exact .inl (.inr ⟨c, h, hp⟩)
            · exact .inr hp
    · next misses =>
      have same : ∀ c, columnHit c0 b (q + 1) c ↔ columnHit c0 b q c := by
        intro c
        rw [columnHit_succ]
        constructor
        · rintro (h | ⟨rfl, h⟩)
          · exact h
          · exact absurd h misses
        · exact .inl
      simp only [same]
      exact ⟨pixels, collided⟩

/-- A set bit among the first `n` sprite rows, drawn from (r0, c0), lands on pixel (r, c) of the screen. -/
abbrev spriteHit (m : Memory) (a r0 c0 n r c : Nat) : Prop :=
  r < 32 ∧ r0 ≤ r ∧ r < r0 + n ∧ columnHit c0 (m.read (a + (r - r0))) 8 c

theorem spriteHit_succ (m : Memory) (a r0 c0 n r c : Nat) :
    spriteHit m a r0 c0 (n + 1) r c ↔
      spriteHit m a r0 c0 n r c ∨ (r = r0 + n ∧ r < 32 ∧ columnHit c0 (m.read (a + n)) 8 c) := by
  by_cases h : r = r0 + n
  · subst h
    simp [spriteHit]
  · have : r < r0 + (n + 1) ↔ r < r0 + n := by omega
    simp [spriteHit, h, this]

theorem row_eq (r c0 : Nat) (b : Byte) (d : Drawing) :
    d.row r c0 b = if r < 32 then (List.range 8).foldl (Drawing.column r c0 b) d else d := by
  unfold Drawing.row
  by_cases h : r > 31
  · simp [h, show ¬ (r < 32) by omega]
  · simp [h, show r < 32 by omega]

/-- R151: the loop inverts exactly the pixels the sprite's set bits land on, and collides exactly when one of them was
set before. -/
theorem drawSprite_spec (fb : Framebuffer) (m : Memory) (a r0 c0 n : Nat) :
    (∀ r c, (fb.drawSprite m a r0 c0 n).fb.pixel r c = (fb.pixel r c ^^ decide (spriteHit m a r0 c0 n r c))) ∧
      ((fb.drawSprite m a r0 c0 n).collision = true ↔
        ∃ r c, spriteHit m a r0 c0 n r c ∧ fb.pixel r c = true) := by
  unfold Framebuffer.drawSprite
  induction n with
  | zero =>
    have none : ∀ r c, ¬ spriteHit m a r0 c0 0 r c := fun r c h => by have := h.2.1; have := h.2.2.1; omega
    simp [none]
  | succ n ih =>
    obtain ⟨pixels, collided⟩ := ih
    rw [List.range_succ, List.foldl_append, List.foldl_cons, List.foldl_nil, row_eq]
    generalize (List.range n).foldl (fun (d : Drawing) k => d.row (r0 + k) c0 (m.read (a + k)))
      ({ fb := fb, collision := false } : Drawing) = e at pixels collided
    have fresh : ∀ c, ¬ spriteHit m a r0 c0 n (r0 + n) c := fun c h => by have := h.2.2.1; omega
    split
    · next onScreen =>
      obtain ⟨rowPixels, rowCollided⟩ := columns_spec (r0 + n) c0 (m.read (a + n)) e 8 onScreen
      refine ⟨fun r c => ?_, ?_⟩
      · rw [rowPixels, pixels]
        by_cases same : r = r0 + n
        · subst same
          simp [fresh, spriteHit_succ, onScreen]
        · simp [same, spriteHit_succ]
      · have here : ∀ c, e.fb.pixel (r0 + n) c = fb.pixel (r0 + n) c := by simp [pixels, fresh]
        rw [rowCollided, collided]
        constructor
        · rintro (⟨r, c, h, hp⟩ | ⟨c, h, hp⟩)
          · exact ⟨r, c, (spriteHit_succ ..).mpr (.inl h), hp⟩
          · exact ⟨r0 + n, c, (spriteHit_succ ..).mpr (.inr ⟨rfl, onScreen, h⟩), here c ▸ hp⟩
        · rintro ⟨r, c, h, hp⟩
          rcases (spriteHit_succ ..).mp h with h | ⟨rfl, _, h⟩
          · exact .inl ⟨r, c, h, hp⟩
          · exact .inr ⟨c, h, (here c).symm ▸ hp⟩
    · next offScreen =>
      have same : ∀ r c, spriteHit m a r0 c0 (n + 1) r c ↔ spriteHit m a r0 c0 n r c := by
        intro r c
        rw [spriteHit_succ]
        constructor
        · rintro (h | ⟨rfl, h, _⟩)
          · exact h
          · exact absurd h offScreen
        · exact .inl
      simp only [same]
      exact ⟨pixels, collided⟩

/-- A pixel the sprite's set bits land on is inverted. -/
theorem drawSprite_pixel_hit (fb : Framebuffer) {m : Memory} {a r0 c0 n r c : Nat} (h : spriteHit m a r0 c0 n r c) :
    (fb.drawSprite m a r0 c0 n).fb.pixel r c = !fb.pixel r c := by
  rw [(drawSprite_spec fb m a r0 c0 n).1 r c, decide_eq_true h, Bool.xor_true]

/-- Every other pixel is left alone. -/
theorem drawSprite_pixel_miss (fb : Framebuffer) {m : Memory} {a r0 c0 n r c : Nat}
    (h : ¬ spriteHit m a r0 c0 n r c) : (fb.drawSprite m a r0 c0 n).fb.pixel r c = fb.pixel r c := by
  rw [(drawSprite_spec fb m a r0 c0 n).1 r c, decide_eq_false h, Bool.xor_false]

/-- The pixels the statements speak of are the ones the loop hits (R151 to R153). -/
theorem spriteCovers_iff (s : State) (x y n : Nibble) (r c : Nat) :
    spriteCovers s x y n r c ↔
      spriteHit s.mem (blockBase s) (startRow s y) (startColumn s x) (rowCount n) r c := by
  simp only [spriteCovers, spriteHit, columnHit, blockBase, startRow, startColumn, rowCount]
  tauto

end Sys2Proof.Machine
end

