-- ==== Sys2Proof/Laws/PerInstr.lean ====
section
/-! SUPPORT. Per instruction: its word is selected by its own row of spec/30_encoding.md R64, whatever its operands. -/

namespace Sys2Proof.Laws.SelectedByItsRow

/-- Some row of the opcode table with the instruction's mnemonic selects the instruction's word. -/
def Statement (i : Instr) : Prop := ∃ r ∈ opcodeTable, r.mnemonic = i.mnemonic ∧ r.selects (encode i) = true

theorem packNnn_selected (op : Nibble) (nnn : Addr12) : packNnn op nnn &&& 0xF000#16 = packNnn op 0#12 := by
  apply BitVec.eq_of_getLsbD_eq
  intro k hk
  simp only [packNnn, BitVec.getLsbD_and, BitVec.getLsbD_append]
  interval_cases k <;> simp

theorem packXkk_selected (op x : Nibble) (kk : Byte) : packXkk op x kk &&& 0xF000#16 = packXkk op 0#4 0#8 := by
  apply BitVec.eq_of_getLsbD_eq
  intro k hk
  simp only [packXkk, BitVec.getLsbD_and, BitVec.getLsbD_append]
  interval_cases k <;> simp

theorem packX_selected (op x : Nibble) (kk : Byte) : packXkk op x kk &&& 0xF0FF#16 = packXkk op 0#4 kk := by
  apply BitVec.eq_of_getLsbD_eq
  intro k hk
  simp only [packXkk, BitVec.getLsbD_and, BitVec.getLsbD_append]
  interval_cases k <;> simp

theorem packXy_selected (op x y n : Nibble) : packXy op x y n &&& 0xF00F#16 = packXy op 0#4 0#4 n := by
  apply BitVec.eq_of_getLsbD_eq
  intro k hk
  simp only [packXy, BitVec.getLsbD_and, BitVec.getLsbD_append]
  interval_cases k <;> simp

theorem packXyn_selected (op x y n : Nibble) : packXy op x y n &&& 0xF000#16 = packXy op 0#4 0#4 0#4 := by
  apply BitVec.eq_of_getLsbD_eq
  intro k hk
  simp only [packXy, BitVec.getLsbD_and, BitVec.getLsbD_append]
  interval_cases k <;> simp

/-- A row of the table that names the instruction and selects its word settles the statement. -/
theorem of_row {i : Instr} (r : OpcodeRow) (listed : r ∈ opcodeTable) (named : r.mnemonic = i.mnemonic)
    (word : encode i &&& r.mask = r.value) : Statement i :=
  ⟨r, listed, named, by simp [OpcodeRow.selects, word]⟩

theorem cls : Statement (.cls) :=
  of_row ⟨"CLS", 0xFFFF#16, 0x00E0#16⟩ (by decide) rfl rfl

theorem ret : Statement (.ret) :=
  of_row ⟨"RET", 0xFFFF#16, 0x00EE#16⟩ (by decide) rfl rfl

theorem jp (nnn : Addr12) : Statement (.jp nnn) :=
  of_row ⟨"JP", 0xF000#16, 0x1000#16⟩ (by decide) rfl (packNnn_selected _ _)

theorem call (nnn : Addr12) : Statement (.call nnn) :=
  of_row ⟨"CALL", 0xF000#16, 0x2000#16⟩ (by decide) rfl (packNnn_selected _ _)

theorem seImm (x : Nibble) (kk : Byte) : Statement (.seImm x kk) :=
  of_row ⟨"SE_IMM", 0xF000#16, 0x3000#16⟩ (by decide) rfl (packXkk_selected _ _ _)

theorem sneImm (x : Nibble) (kk : Byte) : Statement (.sneImm x kk) :=
  of_row ⟨"SNE_IMM", 0xF000#16, 0x4000#16⟩ (by decide) rfl (packXkk_selected _ _ _)

theorem seReg (x y : Nibble) : Statement (.seReg x y) :=
  of_row ⟨"SE_REG", 0xF00F#16, 0x5000#16⟩ (by decide) rfl (packXy_selected _ _ _ _)

theorem ldImm (x : Nibble) (kk : Byte) : Statement (.ldImm x kk) :=
  of_row ⟨"LD_IMM", 0xF000#16, 0x6000#16⟩ (by decide) rfl (packXkk_selected _ _ _)

theorem addImm (x : Nibble) (kk : Byte) : Statement (.addImm x kk) :=
  of_row ⟨"ADD_IMM", 0xF000#16, 0x7000#16⟩ (by decide) rfl (packXkk_selected _ _ _)

theorem ldReg (x y : Nibble) : Statement (.ldReg x y) :=
  of_row ⟨"LD_REG", 0xF00F#16, 0x8000#16⟩ (by decide) rfl (packXy_selected _ _ _ _)

theorem or (x y : Nibble) : Statement (.or x y) :=
  of_row ⟨"OR", 0xF00F#16, 0x8001#16⟩ (by decide) rfl (packXy_selected _ _ _ _)

theorem and (x y : Nibble) : Statement (.and x y) :=
  of_row ⟨"AND", 0xF00F#16, 0x8002#16⟩ (by decide) rfl (packXy_selected _ _ _ _)

theorem xor (x y : Nibble) : Statement (.xor x y) :=
  of_row ⟨"XOR", 0xF00F#16, 0x8003#16⟩ (by decide) rfl (packXy_selected _ _ _ _)

theorem addReg (x y : Nibble) : Statement (.addReg x y) :=
  of_row ⟨"ADD_REG", 0xF00F#16, 0x8004#16⟩ (by decide) rfl (packXy_selected _ _ _ _)

theorem sub (x y : Nibble) : Statement (.sub x y) :=
  of_row ⟨"SUB", 0xF00F#16, 0x8005#16⟩ (by decide) rfl (packXy_selected _ _ _ _)

theorem shr (x y : Nibble) : Statement (.shr x y) :=
  of_row ⟨"SHR", 0xF00F#16, 0x8006#16⟩ (by decide) rfl (packXy_selected _ _ _ _)

theorem subn (x y : Nibble) : Statement (.subn x y) :=
  of_row ⟨"SUBN", 0xF00F#16, 0x8007#16⟩ (by decide) rfl (packXy_selected _ _ _ _)

theorem shl (x y : Nibble) : Statement (.shl x y) :=
  of_row ⟨"SHL", 0xF00F#16, 0x800E#16⟩ (by decide) rfl (packXy_selected _ _ _ _)

theorem sneReg (x y : Nibble) : Statement (.sneReg x y) :=
  of_row ⟨"SNE_REG", 0xF00F#16, 0x9000#16⟩ (by decide) rfl (packXy_selected _ _ _ _)

theorem ldI (nnn : Addr12) : Statement (.ldI nnn) :=
  of_row ⟨"LD_I", 0xF000#16, 0xA000#16⟩ (by decide) rfl (packNnn_selected _ _)

theorem jprel (nnn : Addr12) : Statement (.jprel nnn) :=
  of_row ⟨"JPREL", 0xF000#16, 0xB000#16⟩ (by decide) rfl (packNnn_selected _ _)

theorem rnd (x : Nibble) (kk : Byte) : Statement (.rnd x kk) :=
  of_row ⟨"RND", 0xF000#16, 0xC000#16⟩ (by decide) rfl (packXkk_selected _ _ _)

theorem drw (x y n : Nibble) : Statement (.drw x y n) :=
  of_row ⟨"DRW", 0xF000#16, 0xD000#16⟩ (by decide) rfl (packXyn_selected _ _ _ _)

theorem skp (x : Nibble) : Statement (.skp x) :=
  of_row ⟨"SKP", 0xF0FF#16, 0xE09E#16⟩ (by decide) rfl (packX_selected _ _ _)

theorem sknp (x : Nibble) : Statement (.sknp x) :=
  of_row ⟨"SKNP", 0xF0FF#16, 0xE0A1#16⟩ (by decide) rfl (packX_selected _ _ _)

theorem ldVxDt (x : Nibble) : Statement (.ldVxDt x) :=
  of_row ⟨"LD_VX_DT", 0xF0FF#16, 0xF007#16⟩ (by decide) rfl (packX_selected _ _ _)

theorem ldVxK (x : Nibble) : Statement (.ldVxK x) :=
  of_row ⟨"LD_VX_K", 0xF0FF#16, 0xF00A#16⟩ (by decide) rfl (packX_selected _ _ _)

theorem ldDtVx (x : Nibble) : Statement (.ldDtVx x) :=
  of_row ⟨"LD_DT_VX", 0xF0FF#16, 0xF015#16⟩ (by decide) rfl (packX_selected _ _ _)

theorem ldStVx (x : Nibble) : Statement (.ldStVx x) :=
  of_row ⟨"LD_ST_VX", 0xF0FF#16, 0xF018#16⟩ (by decide) rfl (packX_selected _ _ _)

theorem addI (x : Nibble) : Statement (.addI x) :=
  of_row ⟨"ADD_I", 0xF0FF#16, 0xF01E#16⟩ (by decide) rfl (packX_selected _ _ _)

theorem ldF (x : Nibble) : Statement (.ldF x) :=
  of_row ⟨"LD_F", 0xF0FF#16, 0xF029#16⟩ (by decide) rfl (packX_selected _ _ _)

theorem ldB (x : Nibble) : Statement (.ldB x) :=
  of_row ⟨"LD_B", 0xF0FF#16, 0xF033#16⟩ (by decide) rfl (packX_selected _ _ _)

theorem stRegs (x : Nibble) : Statement (.stRegs x) :=
  of_row ⟨"ST_REGS", 0xF0FF#16, 0xF055#16⟩ (by decide) rfl (packX_selected _ _ _)

theorem ldRegs (x : Nibble) : Statement (.ldRegs x) :=
  of_row ⟨"LD_REGS", 0xF0FF#16, 0xF065#16⟩ (by decide) rfl (packX_selected _ _ _)

end Sys2Proof.Laws.SelectedByItsRow
end

