-- ==== Sys2Proof/Tests/Slice0.lean ====
section
/-! SUPPORT. Tests: words written out from spec/30_encoding.md R64 bit by bit, the vectors of spec/95_test_vectors.md
(named in each test), illegal words, and a witness for the hypotheses of every statement that has any. -/

namespace Sys2Proof.Tests

open Sys2Proof.Machine

/-! ## Helpers -/

/-- `s` with `word` where the next step fetches. -/
def place (word : Nat) (s : State) : State := s.withFetchWord 16 word

/-- The reset state with `word` at 0x200. -/
def fresh (word : Nat) : State := place word State.reset

/-- `f` of the state one step leads to. -/
def afterStep {α : Type} (s : State) (f : State → α) : Option α :=
  match step s with
  | .next t => some (f t)
  | _ => none

/-- The bytes at `a`, `a + 1`, ... in memory. -/
def withBytes (a : Nat) (bytes : List Byte) (s : State) : State := s.setMem (s.mem.writeBytes a bytes)

/-- The reset state with `V[0]` and `V[1]`. -/
def two (a b : Byte) : State := (State.reset.writeV 0#4 a).writeV 1#4 b

/-! ## Decoding: one word for each instruction, op x y n from the most significant digit -/

theorem test_decode_control :
    decode 0b0000000011101110#16 = .ok .ret ∧ decode 0b0001001000110100#16 = .ok (.jp 0b001000110100#12) ∧
    decode 0b0010001100000000#16 = .ok (.call 0b001100000000#12) ∧
    decode 0b1011000000010000#16 = .ok (.jprel 0b000000010000#12) := by decide

theorem test_decode_skips :
    decode 0b0011001000010000#16 = .ok (.seImm 0b0010#4 0b00010000#8) ∧
    decode 0b0100001000010000#16 = .ok (.sneImm 0b0010#4 0b00010000#8) ∧
    decode 0b0101000100100000#16 = .ok (.seReg 0b0001#4 0b0010#4) ∧
    decode 0b1001000100100000#16 = .ok (.sneReg 0b0001#4 0b0010#4) := by decide

theorem test_decode_loads_and_logic :
    decode 0b0110111110101011#16 = .ok (.ldImm 0b1111#4 0b10101011#8) ∧
    decode 0b0111001111111111#16 = .ok (.addImm 0b0011#4 0b11111111#8) ∧
    decode 0b1000000000010000#16 = .ok (.ldReg 0b0000#4 0b0001#4) ∧
    decode 0b1000000000010001#16 = .ok (.or 0b0000#4 0b0001#4) ∧
    decode 0b1000000000010010#16 = .ok (.and 0b0000#4 0b0001#4) ∧
    decode 0b1000000000010011#16 = .ok (.xor 0b0000#4 0b0001#4) := by decide

theorem test_decode_arithmetic :
    decode 0b1000111100010100#16 = .ok (.addReg 0b1111#4 0b0001#4) ∧
    decode 0b1000000011110101#16 = .ok (.sub 0b0000#4 0b1111#4) ∧
    decode 0b1000000000010110#16 = .ok (.shr 0b0000#4 0b0001#4) ∧
    decode 0b1000000000010111#16 = .ok (.subn 0b0000#4 0b0001#4) ∧
    decode 0b1000000000011110#16 = .ok (.shl 0b0000#4 0b0001#4) ∧
    decode 0b1100010111111111#16 = .ok (.rnd 0b0101#4 0b11111111#8) := by decide

theorem test_decode_index_and_memory :
    decode 0b1010001011110000#16 = .ok (.ldI 0b001011110000#12) ∧
    decode 0b1111001000011110#16 = .ok (.addI 0b0010#4) ∧ decode 0b1111000000101001#16 = .ok (.ldF 0b0000#4) ∧
    decode 0b1111001100110011#16 = .ok (.ldB 0b0011#4) ∧ decode 0b1111001001010101#16 = .ok (.stRegs 0b0010#4) ∧
    decode 0b1111001001100101#16 = .ok (.ldRegs 0b0010#4) := by decide

theorem test_decode_display :
    decode 0b0000000011100000#16 = .ok .cls ∧
    decode 0b1101000100100101#16 = .ok (.drw 0b0001#4 0b0010#4 0b0101#4) := by decide

theorem test_decode_keypad_and_timers :
    decode 0b1110000110011110#16 = .ok (.skp 0b0001#4) ∧ decode 0b1110000110100001#16 = .ok (.sknp 0b0001#4) ∧
    decode 0b1111001100001010#16 = .ok (.ldVxK 0b0011#4) ∧ decode 0b1111001000000111#16 = .ok (.ldVxDt 0b0010#4) ∧
    decode 0b1111001000010101#16 = .ok (.ldDtVx 0b0010#4) ∧
    decode 0b1111001000011000#16 = .ok (.ldStVx 0b0010#4) := by decide

/-- R43: the more significant byte first; and a list that ends inside the instruction. -/
theorem test_decode_bytes :
    decodeBytes [0x60#8, 0x0A#8, 0xFF#8] = .ok (.ldImm 0x0#4 0x0A#8, [0xFF#8]) ∧
    decodeBytes [0x60#8] = .error .truncated := by decide

theorem test_decode_table_word : decodeTableWord 16 0xD125 = some (.drw 0x1#4 0x2#4 0x5#4) := by decide

/-! ## Ill-formed words: one or more for each class of R67 (vectors E1 to E10) -/

theorem test_illegal_words_are_ill_formed :
    [0x0000#16, 0x00E1#16, 0x0123#16, 0x5121#16, 0x9121#16, 0x8008#16, 0x800F#16, 0xE09F#16, 0xF000#16, 0xF075#16].all
      (fun w => !wellFormedWord w) = true := by decide

theorem test_illegal_words_are_rejected_by_name :
    decode 0x00E1#16 = .error (.illegal0nnn 0x00E1#16) ∧ decode 0x5121#16 = .error (.illegal5xyn 0x5121#16) ∧
    decode 0x8008#16 = .error (.illegal8xyn 0x8008#16) ∧ decode 0x9121#16 = .error (.illegal9xyn 0x9121#16) ∧
    decode 0xE09F#16 = .error (.illegalExkk 0xE09F#16) ∧ decode 0xF075#16 = .error (.illegalFxkk 0xF075#16) := by
  decide

theorem test_legal_words_are_well_formed :
    [0x00E0#16, 0x5120#16, 0x9120#16, 0x8007#16, 0x800E#16, 0xE09E#16].all wellFormedWord = true := by decide

/-! ## The step (vectors E3, E11 to E17) -/

theorem test_illegal_word_halts_E3 :
    afterStep (fresh 0x0123) (fun t => (t.status, t.pc, t.ir)) =
      some (.halted (.decodeError 0x0123#16), 0x0202#16, 0x0123#16) := by decide

theorem test_no_tick_when_halting_E11 :
    afterStep (fresh 0x0000 |>.setDt 5#8 |>.setSt 5#8) (fun t => (t.dt, t.st)) = some (5#8, 5#8) := by decide

theorem test_tick_E12 :
    afterStep (fresh 0x6000 |>.setDt 1#8 |>.setSt 255#8) (fun t => (t.dt, t.st)) = some (0#8, 254#8) := by decide

theorem test_fetch_past_end_E14 :
    afterStep (State.reset.setPc 0x1000#16 |>.setIr 0x1234#16) (fun t => (t.status, t.pc, t.ir)) =
      some (.halted (.outOfBounds (.fetch 0x1000#16)), 0x1000#16, 0x1234#16) := by decide

theorem test_odd_pc_E15 :
    afterStep (place 0x6A55 (State.reset.setPc 0x0301#16)) (fun t => (t.readV 0xA#4, t.pc)) =
      some (0x55#8, 0x0303#16) := by decide

theorem test_halted_is_sticky_E16 :
    afterStep (fresh 0x6000 |>.setDt 5#8 |>.setStatus (.halted (.decodeError 0#16))) (fun t => (t.dt, t.pc)) =
      some (5#8, 0x0200#16) := by decide

theorem test_skip_past_end_E17 :
    afterStep (place 0x3000 (State.reset.setPc 0x0FFE#16)) (fun t => (t.pc, t.status)) =
      some (0x1002#16, .running) := by decide

/-- The empty ROM: the first step of the machine halts on the zero word (R203). -/
theorem test_empty_rom_halts :
    afterStep State.reset (fun t => t.status) = some (.halted (.decodeError 0#16)) := by decide

/-- S6 of the spec: the ROM lies at 0x200, verbatim. -/
theorem test_rom_is_loaded_S6 :
    (State.resetWith [0x60#8, 0x0A#8, 0x61#8, 0x05#8]).map (fun s => (s.mem.readWord 0x200, s.mem.readWord 0x202)) =
      some (0x600A#16, 0x6105#16) := by decide

/-! ## Control transfer (J vectors) -/

theorem test_jp_J1 : afterStep (fresh 0x1234) (fun t => t.pc) = some 0x0234#16 := by decide

theorem test_call_J7 :
    afterStep (place 0x2FFF (State.reset.setPc 0x0FFE#16)) (fun t => (t.stack.get 0, t.sp, t.pc)) =
      some (0x1000#16, 1, 0x0FFF#16) := by decide

theorem test_call_full_J6 :
    afterStep (fresh 0x2300 |>.setStack (Vector.replicate 16 0#16) 16) (fun t => (t.status, t.sp, t.pc)) =
      some (.halted (.stackOverflow 0x2300#16), 16, 0x0202#16) := by decide

theorem test_ret_J9 :
    afterStep (place 0x00EE ((State.reset.setPc 0x0300#16).setStack (Vector.replicate 16 0x0204#16) 1))
      (fun t => (t.sp, t.pc, t.stack.get 0)) = some (0, 0x0204#16, 0x0204#16) := by decide

theorem test_ret_empty_J8 :
    afterStep (fresh 0x00EE) (fun t => (t.status, t.sp, t.pc)) =
      some (.halted (.stackUnderflow 0x00EE#16), 0, 0x0202#16) := by decide

theorem test_jprel_J12 :
    afterStep (place 0xBFFF (State.reset.setPc 0x0FFE#16)) (fun t => t.pc) = some 0x1FFF#16 := by decide

theorem test_jprel_J13 : afterStep (fresh 0xB010 |>.writeV 0#4 0x80#8) (fun t => t.pc) = some 0x0212#16 := by decide

/-! ## Skips (K vectors) -/

theorem test_se_imm_K1 : afterStep (fresh 0x3210 |>.writeV 2#4 0x10#8) (fun t => t.pc) = some 0x0204#16 := by decide
theorem test_se_imm_K2 : afterStep (fresh 0x3210 |>.writeV 2#4 0x11#8) (fun t => t.pc) = some 0x0202#16 := by decide
theorem test_sne_imm_K3 : afterStep (fresh 0x4210 |>.writeV 2#4 0x10#8) (fun t => t.pc) = some 0x0202#16 := by decide
theorem test_sne_imm_K4 : afterStep (fresh 0x4210 |>.writeV 2#4 0x11#8) (fun t => t.pc) = some 0x0204#16 := by decide

theorem test_se_reg_K5 :
    afterStep (fresh 0x5120 |>.writeV 1#4 7#8 |>.writeV 2#4 7#8) (fun t => t.pc) = some 0x0204#16 := by decide
theorem test_se_reg_K6 :
    afterStep (fresh 0x5120 |>.writeV 1#4 7#8 |>.writeV 2#4 8#8) (fun t => t.pc) = some 0x0202#16 := by decide
theorem test_sne_reg_K7 :
    afterStep (fresh 0x9120 |>.writeV 1#4 7#8 |>.writeV 2#4 7#8) (fun t => t.pc) = some 0x0202#16 := by decide
theorem test_sne_reg_K8 :
    afterStep (fresh 0x9120 |>.writeV 1#4 7#8 |>.writeV 2#4 8#8) (fun t => t.pc) = some 0x0204#16 := by decide

/-! ## ALU (A vectors) -/

theorem test_ld_imm_A1 : afterStep (fresh 0x6FAB) (fun t => t.readV vf) = some 0xAB#8 := by decide

theorem test_add_imm_A2 :
    afterStep (place 0x7001 ((two 0xFF#8 0#8).writeV vf 5#8)) (fun t => (t.readV 0#4, t.readV vf)) =
      some (0#8, 5#8) := by decide

theorem test_ld_reg_A4 : afterStep (place 0x8010 (two 0#8 5#8)) (fun t => t.readV 0#4) = some 5#8 := by decide

theorem test_or_A5 :
    afterStep (place 0x8011 ((two 0xF0#8 0x0F#8).writeV vf 1#8)) (fun t => (t.readV 0#4, t.readV vf)) =
      some (0xFF#8, 1#8) := by decide

theorem test_and_A6 :
    afterStep (place 0x8012 ((two 0xF0#8 0x3C#8).writeV vf 1#8)) (fun t => (t.readV 0#4, t.readV vf)) =
      some (0x30#8, 1#8) := by decide

theorem test_xor_A7 :
    afterStep (place 0x8013 ((two 0xFF#8 0x0F#8).writeV vf 1#8)) (fun t => (t.readV 0#4, t.readV vf)) =
      some (0xF0#8, 1#8) := by decide

theorem test_add_reg_A9 :
    afterStep (place 0x8014 (two 0xFF#8 0x01#8)) (fun t => (t.readV 0#4, t.readV vf)) = some (0#8, 1#8) := by decide

theorem test_add_reg_A14 :
    afterStep (place 0x8F14 ((two 0#8 0x20#8).writeV vf 0xF0#8)) (fun t => t.readV vf) = some 0x10#8 := by decide

theorem test_sub_A18 :
    afterStep (place 0x8015 (two 0x10#8 0x10#8)) (fun t => (t.readV 0#4, t.readV vf)) = some (0#8, 0#8) := by decide

/-- The word that tells the two readings of conflict C2 apart (end of section 2.4 of the vectors). -/
theorem test_sub_C2 :
    afterStep (place 0x80F5 ((two 0x10#8 0#8).writeV vf 0x20#8)) (fun t => (t.readV 0#4, t.readV vf)) =
      some (0xF0#8, 0#8) := by decide

theorem test_subn_A22 :
    afterStep (place 0x8017 (two 0x05#8 0x0A#8)) (fun t => (t.readV 0#4, t.readV vf)) = some (5#8, 1#8) := by decide

theorem test_subn_A25 :
    afterStep (place 0x8F17 ((two 0#8 0x10#8).writeV vf 0x01#8)) (fun t => t.readV vf) = some 0x0F#8 := by decide

theorem test_shr_A26 :
    afterStep (place 0x8016 (two 0x05#8 0xAA#8)) (fun t => (t.readV 0#4, t.readV 1#4, t.readV vf)) =
      some (2#8, 0xAA#8, 1#8) := by decide

theorem test_shr_A29 : afterStep (fresh 0x8F06 |>.writeV vf 0x07#8) (fun t => t.readV vf) = some 0x03#8 := by decide

theorem test_shl_A30 :
    afterStep (place 0x801E (two 0x81#8 0xAA#8)) (fun t => (t.readV 0#4, t.readV 1#4, t.readV vf)) =
      some (2#8, 0xAA#8, 1#8) := by decide

theorem test_shl_A31 :
    afterStep (fresh 0x801E |>.writeV 0#4 0x40#8) (fun t => (t.readV 0#4, t.readV vf)) = some (0x80#8, 0#8) := by
  decide

theorem test_rnd_A34 :
    afterStep (fresh 0xC00F |>.writeV 0#4 0xFF#8 |>.setInputs 0#16 0xA7#8 0) (fun t => t.readV 0#4) =
      some 0x07#8 := by decide

/-! ## Index register and memory (M vectors) -/

theorem test_ld_i_M1 : afterStep (fresh 0xA2F0) (fun t => t.i) = some 0x02F0#16 := by decide

theorem test_add_i_M3 :
    afterStep (fresh 0xF01E |>.setI 0xFFFF#16 |>.writeV 0#4 1#8) (fun t => (t.i, t.readV vf)) =
      some (0#16, 0#8) := by decide

/-- M6: the whole byte is used, for whatever `FONT_BASE` is. -/
theorem test_ld_f_M6 :
    afterStep (fresh 0xF029 |>.writeV 0#4 0xFF#8) (fun t => t.i) =
      some (BitVec.ofNat 16 (Config.fontBase.val + 1275)) := rfl

theorem test_ld_b_M16 :
    afterStep (fresh 0xF333 |>.writeV 3#4 156#8 |>.setI 0x0300#16)
      (fun t => (t.mem.read 0x300, t.mem.read 0x301, t.mem.read 0x302)) = some (1#8, 5#8, 6#8) := by decide

theorem test_ld_b_M21 :
    afterStep (fresh 0xF033 |>.writeV 0#4 123#8 |>.setI 0x0FFE#16)
      (fun t => (t.status, t.mem.read 0xFFE, t.mem.read 0xFFF)) =
      some (.halted (.outOfBounds (.mem .fx33 0x0FFE#16)), 0#8, 0#8) := by decide

theorem test_st_regs_M7 :
    afterStep (place 0xF255 (two 1#8 2#8 |>.writeV 2#4 3#8 |>.writeV 3#4 4#8 |>.setI 0x0400#16))
      (fun t => (t.mem.read 0x400, t.mem.read 0x401, t.mem.read 0x402, t.mem.read 0x403, t.i)) =
      some (1#8, 2#8, 3#8, 0#8, 0x0400#16) := by decide

theorem test_st_regs_M15 :
    afterStep (fresh 0xF155 |>.setI 0xFFFF#16) (fun t => t.status) =
      some (.halted (.outOfBounds (.mem .fx55 0xFFFF#16))) := by decide

theorem test_ld_regs_M11 :
    afterStep (place 0xF265 (withBytes 0x400 [1#8, 2#8, 3#8, 4#8] State.reset |>.setI 0x0400#16 |>.writeV 3#4 0x77#8))
      (fun t => (t.readV 0#4, t.readV 1#4, t.readV 2#4, t.readV 3#4, t.i)) =
      some (1#8, 2#8, 3#8, 0x77#8, 0x0400#16) := by decide

theorem test_ld_regs_M13 :
    afterStep (place 0xF165 (withBytes 0xFFF [5#8] (two 9#8 9#8) |>.setI 0x0FFF#16))
      (fun t => (t.status, t.readV 0#4, t.readV 1#4)) =
      some (.halted (.outOfBounds (.mem .fx65 0x0FFF#16)), 9#8, 9#8) := by decide

/-! ## Display (G vectors) -/

/-- The pixels of row `r` between two columns. -/
def rowPixels (r c n : Nat) (t : State) : List Bool := (List.range n).map fun k => t.fb.pixel r (c + k)

theorem test_drw_G4 :
    afterStep (place 0xD011 (withBytes 0x300 [0x01#8] (two 10#8 0#8) |>.setI 0x0300#16))
      (fun t => (rowPixels 0 9 10 t, t.readV vf)) =
      some ([false, false, false, false, false, false, false, false, true, false], 0#8) := by decide

theorem test_drw_G8 :
    afterStep (place 0xD012 (withBytes 0x300 [0xF0#8, 0x0F#8] State.reset |>.setI 0x0300#16
        |>.setFb ((State.reset.fb.flip 0 0).flip 1 0)))
      (fun t => (rowPixels 0 0 5 t, rowPixels 1 0 9 t, t.readV vf)) =
      some ([false, true, true, true, false],
        [true, false, false, false, true, true, true, true, false], 1#8) := by decide

theorem test_cls_G15 :
    afterStep (fresh 0x00E0 |>.setFb ((State.reset.fb.flip 0 0).flip 31 63) |>.writeV vf 3#8)
      (fun t => (t.fb.pixel 0 0, t.fb.pixel 31 63, t.readV vf)) = some (false, false, 3#8) := by decide

/-! ## Keypad and timers (T vectors) -/

theorem test_skp_T1 :
    afterStep (fresh 0xE19E |>.writeV 1#4 5#8 |>.setInputs 0x0020#16 0#8 0) (fun t => t.pc) =
      some 0x0204#16 := by decide

theorem test_skp_T6 :
    afterStep (fresh 0xE19E |>.writeV 1#4 16#8 |>.setInputs 0xFFFF#16 0#8 0) (fun t => (t.status, t.pc)) =
      some (.halted (.outOfBounds (.key 16#8)), 0x0202#16) := by decide

theorem test_sknp_T3 :
    afterStep (fresh 0xE1A1 |>.writeV 1#4 5#8 |>.setInputs 0x0020#16 0#8 0) (fun t => t.pc) =
      some 0x0202#16 := by decide

theorem test_sknp_T4 :
    afterStep (fresh 0xE1A1 |>.writeV 1#4 5#8 |>.setInputs 0x0000#16 0#8 0) (fun t => t.pc) =
      some 0x0204#16 := by decide

theorem test_ld_vx_k_T8 :
    afterStep (fresh 0xF30A |>.writeV 3#4 0x77#8 |>.setDt 5#8 |>.setSt 1#8)
      (fun t => (t.pc, t.readV 3#4, t.dt, t.st)) = some (0x0200#16, 0x77#8, 4#8, 0#8) := by decide

theorem test_ld_vx_k_T9 :
    afterStep (fresh 0xF30A |>.writeV 3#4 0x77#8 |>.setDt 5#8 |>.setInputs 0x0088#16 0#8 0)
      (fun t => (t.readV 3#4, t.pc, t.dt)) = some (3#8, 0x0202#16, 4#8) := by decide

theorem test_ld_vx_dt_T12 :
    afterStep (fresh 0xF207 |>.setDt 5#8) (fun t => (t.readV 2#4, t.dt)) = some (5#8, 4#8) := by decide

theorem test_ld_dt_vx_T14 :
    afterStep (fresh 0xF215 |>.writeV 2#4 0x3C#8) (fun t => t.dt) = some 0x3B#8 := by decide

theorem test_ld_dt_vx_T15 :
    afterStep (fresh 0xF215 |>.setDt 9#8) (fun t => t.dt) = some 0#8 := by decide

theorem test_ld_st_vx_T17 :
    afterStep (fresh 0xF218 |>.writeV 2#4 2#8) (fun t => t.st) = some 1#8 := by decide

/-! ## Memory -/

/-- Writing what the unlisted address reads as removes the entry, so equal memories are equal lists. -/
theorem test_memory_is_canonical :
    Memory.write (Memory.write [] 0x300 7#8) 0x300 0#8 = [] ∧
    Memory.write (Memory.write [] 0x301 7#8) 0x300 1#8 = [(0x300, 1#8), (0x301, 7#8)] := by decide

/-- The host sees what the ports show, and its key write changes the key alone. -/
theorem test_ports :
    statusPort State.reset = .running ∧ framebufferPort State.reset 0 0 = false ∧
    (diagnosticPort State.reset).pc = 0x0200#16 ∧ (hostSetKey State.reset 0x0021#16).key = 0x0021#16 := by decide

/-! ## Witnesses: for every statement with hypotheses, a state and operands that meet them together, at the edges of
its clauses -/

theorem reset_mem_canonical : State.reset.mem.wf := reset_mem_wf

/-- A machine at 0x200 about to run the instruction of a word. -/
theorem witness_aboutToRun : (fresh 0x600A).aboutToRun (.ldImm 0x0#4 0x0A#8) :=
  ⟨rfl, by decide, by decide⟩

theorem witness_WordSelectsItsOpcodeRow :
    (State.reset.setPc 0x0FFE#16).status = .running ∧ (State.reset.setPc 0x0FFE#16).pc.toNat ≤ 4094 ∧
    selectedMnemonics (State.reset.setPc 0x0FFE#16).nextWord = [] := by decide

theorem witness_EncodeOfDecode : decode 0xD125#16 = .ok (.drw 0x1#4 0x2#4 0x5#4) := by decide

theorem witness_FetchReadsBigEndianWord : (State.reset.setPc 0x0FFE#16).pc.toNat ≤ 4094 := by decide

theorem witness_StepRunsDecodedInstruction : (place 0x1234 (State.reset.setPc 0x0FFE#16)).aboutToRun (.jp 0x234#12) :=
  ⟨rfl, by decide, by decide⟩

theorem witness_HaltedStepChangesNothing :
    (State.reset.setStatus (.halted (.decodeError 0#16))).status = .halted (.decodeError 0#16) := rfl

theorem witness_FetchPastEndHalts :
    (State.reset.setPc 0x0FFF#16).status = .running ∧ 4094 < (State.reset.setPc 0x0FFF#16).pc.toNat := by decide

theorem witness_IllegalWordHalts :
    (fresh 0x5121).status = .running ∧ (fresh 0x5121).pc.toNat ≤ 4094 ∧
    wellFormedWord (fresh 0x5121).nextWord = false := by decide

/-- Both clauses: an instruction that completes, and one that halts. -/
theorem witness_CompletedStepTicksTimers :
    (fresh 0x600A).aboutToRun (.ldImm 0x0#4 0x0A#8) ∧ (fresh 0x00EE).aboutToRun .ret ∧
    (∃ u, exec (.ldImm 0x0#4 0x0A#8) (fresh 0x600A).atExecute = .next u ∧ u.status = .running) ∧
    (∃ u, exec .ret (fresh 0x00EE).atExecute = .next u ∧ u.status ≠ .running) :=
  ⟨witness_aboutToRun, ⟨rfl, by decide, by decide⟩, ⟨_, rfl, rfl⟩, ⟨_, rfl, by decide⟩⟩

theorem witness_ResetValues : (List.replicate 3584 0xAA#8).length ≤ 3584 ∧ ([] : List Byte).length ≤ 3584 :=
  ⟨Nat.le_of_eq List.length_replicate, by decide⟩

theorem witness_LongRomIsRefused : 3584 < (List.replicate 3585 0xAA#8).length := by
  rw [List.length_replicate]
  decide

theorem witness_ResetDiscardsAllButTheInputs : State.resetWith [] = some State.reset := rfl

/-- The lowest and the highest depth a return completes at, and the empty stack. -/
theorem witness_ReturnPopsStack :
    (State.reset.setStack State.reset.stack 1).sp.val = (0 : Fin 16).val + 1 ∧
    (State.reset.setStack State.reset.stack 16).sp.val = (15 : Fin 16).val + 1 ∧ State.reset.sp = 0 := by decide

/-- The lowest and the highest depth a call completes at, and the full stack. -/
theorem witness_CallPushesReturnAddress :
    State.reset.sp.val = (0 : Fin 16).val ∧ (State.reset.setStack State.reset.stack 15).sp.val = (15 : Fin 16).val ∧
    (State.reset.setStack State.reset.stack 16).sp = 16 := by decide

theorem witness_ReturnAfterCallResumes :
    ∃ s t u : State, s.sp.val = (15 : Fin 16).val ∧ exec (.call 0x300#12) s = .next t ∧ u.sp = t.sp ∧
      u.stack.get 15 = t.stack.get 15 :=
  ⟨State.reset.setStack State.reset.stack 15, _, _, rfl, rfl, rfl, rfl⟩

theorem witness_JumpToItselfOnlyTicks :
    (fresh 0x1200).aboutToRun (.jp 0x200#12) ∧ (0x200#12).toNat = (fresh 0x1200).pc.toNat :=
  ⟨⟨rfl, by decide, by decide⟩, by decide⟩

/-- The destination of AddReportsCarry, SubtractReportsStrictGreater, ReverseSubtractReportsStrictGreater and
ShiftsReportTheLostBit whose flag remains. -/
theorem witness_flag_remains : (0x0#4 : Nibble) ≠ 0xF#4 ∧ (0xE#4 : Nibble) ≠ 0xF#4 := by decide

theorem witness_RandomByteIsMasked : (0x00#8 : Byte) = 0#8 := rfl

theorem witness_StoresThreeDecimalDigits :
    (State.reset.setI 0x0FFD#16).mem.wf ∧ (State.reset.setI 0x0FFD#16).i.toNat ≤ 4093 :=
  ⟨reset_mem_canonical, by decide⟩

theorem witness_StoresRegisterBlock :
    (State.reset.setI 0x0FF0#16).mem.wf ∧ (State.reset.setI 0x0FF0#16).i.toNat + (0xF#4).toNat ≤ 4095 ∧
    (State.reset.setI 0x0FFF#16).i.toNat + (0x0#4).toNat ≤ 4095 ∧ (0xF#4).toNat ≤ (0xF#4).toNat :=
  ⟨reset_mem_canonical, by decide, by decide, by decide⟩

theorem witness_LoadsRegisterBlock : (State.reset.setI 0x0FF0#16).i.toNat + (0xF#4).toNat ≤ 4095 := by decide

/-- The first state past each bound, and the highest `I`. -/
theorem witness_BlockAccessPastEndHalts :
    4095 < (State.reset.setI 0x0FFE#16).i.toNat + 2 ∧
    4095 < (State.reset.setI 0x0FFF#16).i.toNat + (0x1#4).toNat ∧
    4095 < (State.reset.setI 0xFFFF#16).i.toNat + (0x0#4).toNat ∧
    1 ≤ (0x1#4).toNat ∧ 4096 < (State.reset.setI 0x1000#16).i.toNat + (0x1#4).toNat := by decide

theorem witness_LoadAfterStoreRestores :
    ∃ s t u : State, s.mem.wf ∧ s.i.toNat + (0xF#4).toNat ≤ 4095 ∧ exec (.stRegs 0xF#4) s = .next t ∧ u.i = s.i ∧
      (∀ a, s.i.toNat ≤ a → a ≤ s.i.toNat + (0xF#4).toNat → u.mem.read a = t.mem.read a) :=
  ⟨State.reset.setI 0x0FF0#16, _, _, reset_mem_canonical, by decide, rfl, rfl, fun _ _ _ => rfl⟩

theorem witness_StoredBytesAreFetched :
    ∃ s t u : State, s.mem.wf ∧ s.i.toNat + (0x1#4).toNat ≤ 4095 ∧ exec (.stRegs 0x1#4) s = .next t ∧
      u.mem = t.mem ∧ u.pc.toNat = s.i.toNat + (0x0#4).toNat ∧ (0x0#4).toNat + 1 ≤ (0x1#4).toNat :=
  ⟨State.reset.setI 0x0FFE#16, _, (State.reset.setPc 0x0FFE#16).setMem _, reset_mem_canonical, by decide, rfl, rfl,
    rfl, by decide⟩

/-- No rows whatever `I` is; the last byte of memory; and a pixel that is covered, set and clear. -/
theorem witness_DrawInvertsCoveredPixels :
    ((0x0#4 : Nibble) = 0#4 ∨ (State.reset.setI 0xFFFF#16).i.toNat + (0x0#4).toNat ≤ 4096) ∧
    ((0x1#4 : Nibble) = 0#4 ∨ (State.reset.setI 0x0FFF#16).i.toNat + (0x1#4).toNat ≤ 4096) ∧
    spriteCovers ((withBytes 0x300 [0xFF#8] State.reset).setI 0x0300#16) 0#4 1#4 1#4 0 7 ∧
    ¬ spriteCovers ((withBytes 0x300 [0xFF#8] State.reset).setI 0x0300#16) 0#4 1#4 1#4 0 8 := by
  unfold spriteCovers
  decide

theorem witness_DrawTwiceRestores :
    ∃ s t u : State, ((0x1#4 : Nibble) = 0#4 ∨ s.i.toNat + (0x1#4).toNat ≤ 4096) ∧
      exec (.drw 0x0#4 0x1#4 0x1#4) s = .next t ∧ u.fb = t.fb ∧ u.i = s.i ∧ u.readV 0x0#4 = s.readV 0x0#4 ∧
      u.readV 0x1#4 = s.readV 0x1#4 ∧ (∀ a, u.mem.read a = s.mem.read a) :=
  ⟨State.reset.setI 0x0300#16, _, (State.reset.setI 0x0300#16).setFb _, by decide, rfl, rfl, rfl, rfl, rfl,
    fun _ => rfl⟩

theorem witness_KeySkips : ((State.reset.writeV 1#4 15#8).readV 1#4).toNat ≤ 15 := by decide

theorem witness_KeyNumberAbove15Halts : 15 < ((State.reset.writeV 1#4 16#8).readV 1#4).toNat := by decide

/-- No key; the lowest key alone; the highest key alone; and the waiting step. -/
theorem witness_KeyWaitPollsEachStep :
    (State.reset.setInputs 0#16 0#8 0).key = 0#16 ∧
    ((State.reset.setInputs 0x0001#16 0#8 0).key.getLsbD 0 = true ∧
      ∀ j, j < 0 → (State.reset.setInputs 0x0001#16 0#8 0).key.getLsbD j = false) ∧
    ((State.reset.setInputs 0x8000#16 0#8 0).key.getLsbD 15 = true ∧
      ∀ j, j < 15 → (State.reset.setInputs 0x8000#16 0#8 0).key.getLsbD j = false) ∧
    ((fresh 0xF30A).setInputs 0#16 0#8 0).aboutToRun (.ldVxK 0x3#4) :=
  ⟨rfl, by decide, by decide, ⟨rfl, by decide, by decide⟩⟩

theorem witness_ReadsDelayTimerBeforeTick : (fresh 0xF207).aboutToRun (.ldVxDt 0x2#4) := ⟨rfl, by decide, by decide⟩

theorem witness_SetsTimersBeforeTick :
    (fresh 0xF215).aboutToRun (.ldDtVx 0x2#4) ∧ (fresh 0xF218).aboutToRun (.ldStVx 0x2#4) :=
  ⟨⟨rfl, by decide, by decide⟩, ⟨rfl, by decide, by decide⟩⟩

theorem witness_OtherInstructionsCountTimersDown :
    ∃ t, (fresh 0x600A).aboutToRun (.ldImm 0x0#4 0x0A#8) ∧ step (fresh 0x600A) = .next t ∧ t.status = .running ∧
      (Instr.ldImm 0x0#4 0x0A#8).mnemonic ≠ "LD_DT_VX" ∧ (Instr.ldImm 0x0#4 0x0A#8).mnemonic ≠ "LD_ST_VX" :=
  ⟨_, witness_aboutToRun, rfl, rfl, by decide, by decide⟩

/-- The status an instruction leaves, run in `s`. -/
def statusAfter (i : Instr) (s : State) : Option Status :=
  match exec i s with
  | .next t => some t.status
  | _ => none

theorem witness_OnlyOwnFatalConditionIsRaised :
    ∃ t, State.reset.status = .running ∧ exec .ret State.reset = .next t := ⟨_, rfl, rfl⟩

/-! The clauses of that statement, on both sides of each bound; the statuses are those of spec/60_exceptions.md R170. -/

theorem witness_OnlyOwnFatalConditionIsRaised_stack :
    statusAfter .ret State.reset = some (.halted (.stackUnderflow 0x0000#16)) ∧
    statusAfter .ret (State.reset.setStack State.reset.stack 1) = some .running ∧
    statusAfter (.call 0x300#12) (State.reset.setStack State.reset.stack 15) = some .running ∧
    statusAfter (.call 0x300#12) (State.reset.setStack State.reset.stack 16) =
      some (.halted (.stackOverflow 0x0000#16)) := by decide

theorem witness_OnlyOwnFatalConditionIsRaised_memory :
    statusAfter (.drw 0x0#4 0x0#4 0x2#4) (State.reset.setI 0x0FFE#16) = some .running ∧
    statusAfter (.drw 0x0#4 0x0#4 0x2#4) (State.reset.setI 0x0FFF#16) =
      some (.halted (.outOfBounds (.mem .dxyn 0x0FFF#16))) ∧
    statusAfter (.drw 0x0#4 0x0#4 0x0#4) (State.reset.setI 0xFFFF#16) = some .running ∧
    statusAfter (.ldB 0x0#4) (State.reset.setI 0x0FFD#16) = some .running ∧
    statusAfter (.ldB 0x0#4) (State.reset.setI 0x0FFE#16) =
      some (.halted (.outOfBounds (.mem .fx33 0x0FFE#16))) ∧
    statusAfter (.stRegs 0x1#4) (State.reset.setI 0x0FFE#16) = some .running ∧
    statusAfter (.stRegs 0x1#4) (State.reset.setI 0x0FFF#16) =
      some (.halted (.outOfBounds (.mem .fx55 0x0FFF#16))) ∧
    statusAfter (.ldRegs 0x1#4) (State.reset.setI 0x0FFE#16) = some .running ∧
    statusAfter (.ldRegs 0x1#4) (State.reset.setI 0x0FFF#16) =
      some (.halted (.outOfBounds (.mem .fx65 0x0FFF#16))) := by decide

theorem witness_OnlyOwnFatalConditionIsRaised_key :
    statusAfter (.skp 0x1#4) (State.reset.writeV 0x1#4 15#8) = some .running ∧
    statusAfter (.skp 0x1#4) (State.reset.writeV 0x1#4 16#8) = some (.halted (.outOfBounds (.key 16#8))) ∧
    statusAfter (.sknp 0x1#4) (State.reset.writeV 0x1#4 15#8) = some .running ∧
    statusAfter (.sknp 0x1#4) (State.reset.writeV 0x1#4 16#8) = some (.halted (.outOfBounds (.key 16#8))) ∧
    statusAfter .cls State.reset = some .running := by decide

/-- A step that halts in decode and one that halts in the fetch. -/
theorem witness_HaltingStepIsPrecise :
    (∃ t c, State.reset.status = .running ∧ step State.reset = .next t ∧ t.status = .halted c ∧
      State.reset.pc.toNat ≤ 4094) ∧
    (∃ t c, (State.reset.setPc 0x0FFF#16).status = .running ∧ step (State.reset.setPc 0x0FFF#16) = .next t ∧
      t.status = .halted c ∧ 4094 < (State.reset.setPc 0x0FFF#16).pc.toNat) :=
  ⟨⟨_, _, rfl, rfl, rfl, by decide⟩, ⟨_, _, rfl, rfl, rfl, by decide⟩⟩

theorem witness_EachPartHasItsWriters :
    ∃ t, exec (.ldImm 0x0#4 0x0A#8) State.reset = .next t ∧ (Instr.ldImm 0x0#4 0x0A#8).mnemonic ∉
      ["RET", "JP", "CALL", "JPREL", "SE_IMM", "SNE_IMM", "SE_REG", "SNE_REG", "SKP", "SKNP", "LD_VX_K"] :=
  ⟨_, rfl, by decide⟩

theorem witness_RegistersChangeOnlyAsDestinationOrFlag :
    ∃ t, exec (.ldImm 0x3#4 0x0A#8) State.reset = .next t ∧ t.readV 3#4 ≠ State.reset.readV 3#4 :=
  ⟨_, rfl, by decide⟩

theorem witness_InputsReachOnlyTheirInstructions :
    ∃ t, exec (.ldImm 0x3#4 0x0A#8) State.reset = .next t ∧
      (Instr.ldImm 0x3#4 0x0A#8).mnemonic ∉ ["SKP", "SKNP", "LD_VX_K"] ∧
      (Instr.ldImm 0x3#4 0x0A#8).mnemonic ≠ "RND" := ⟨_, rfl, by decide, by decide⟩

theorem witness_CanonicalMemoriesThatReadAlikeAreEqual :
    ∃ m n : Memory, m ≠ [] ∧ m.wf ∧ n.wf ∧ ∀ a, m.read a = n.read a :=
  ⟨[(0x300, 1#8)], [(0x300, 1#8)], by decide, by decide, by decide, fun _ => rfl⟩

theorem witness_ResetMeetsTheInvariant : State.resetWith [0x12#8, 0x00#8] =
    some (State.reset.setMem [(0x200, 0x12#8)]) := by decide

theorem witness_EveryStepKeepsTheInvariant : ∃ t, State.reset.Inv ∧ step State.reset = .next t :=
  ⟨_, ⟨reset_mem_canonical, by decide, fun _ h => absurd h (Nat.not_lt_zero _)⟩, rfl⟩

theorem witness_ReachableStatesKeepTheirRanges :
    Reachable State.reset ∧ Reachable (hostSetKey State.reset 0x0001#16) :=
  ⟨.reset [] _ rfl, .setKey _ _ (.reset [] _ rfl)⟩

end Sys2Proof.Tests
end

section
/-! SUPPORT. Which parts of the state each instruction may change (spec/10_state.md R14, R26), and that the input ports
reach only the instructions that read them (R21, spec/40_step_cycle.md R82). Settles O51 and O53. -/

namespace Sys2Proof.Machine

/-! ## The frame with memory compared as data -/

/-- The part is the same in `s` and `t`, memory as a list and not only byte for byte as in `Part.same`. -/
def Part.identical (s t : State) : Part → Prop
  | .mem => t.mem = s.mem
  | p => p.same s t

theorem Part.identical.same {s t : State} {p : Part} (h : p.identical s t) : p.same s t := by
  cases p
  case mem => exact fun a => congrArg (Memory.read · a) h
  all_goals exact h

theorem Part.identical.trans {s t u : State} {p : Part} (h : p.identical s t) (h' : p.identical t u) :
    p.identical s u := by
  cases p <;> exact Eq.trans h' h

/-- Every part is identical in `s` and `t` but those listed. -/
def State.identicalBut (s : State) (changed : List Part) (t : State) : Prop :=
  ∀ p, p ∉ changed → p.identical s t

theorem State.identicalBut.mono {s t : State} {changed more : List Part} (h : s.identicalBut changed t)
    (sub : changed ⊆ more) : s.identicalBut more t :=
  fun p hp => h p (mt (@sub p) hp)

theorem State.identicalBut.trans {s t u : State} {first second : List Part} (h : s.identicalBut first t)
    (h' : t.identicalBut second u) : s.identicalBut (first ++ second) u := by
  intro p hp
  obtain ⟨hfirst, hsecond⟩ := not_or.mp (mt List.mem_append.mpr hp)
  exact (h p hfirst).trans (h' p hsecond)

/-! ## What each operation leaves identical -/

theorem writeV_identicalBut (s : State) (x : Nibble) (b : Byte) : s.identicalBut [.v] (s.writeV x b) := by
  intro p hp
  cases p <;> simp_all [Part.identical, Part.same]

theorem setI_identicalBut (s : State) (w : Word) : s.identicalBut [.i] (s.setI w) := by
  intro p hp
  cases p <;> simp_all [Part.identical, Part.same]

theorem setPc_identicalBut (s : State) (w : Word) : s.identicalBut [.pc] (s.setPc w) := by
  intro p hp
  cases p <;> simp_all [Part.identical, Part.same]

theorem setMem_identicalBut (s : State) (m : Memory) : s.identicalBut [.mem] (s.setMem m) := by
  intro p hp
  cases p <;> simp_all [Part.identical, Part.same]

theorem setStack_identicalBut (s : State) (stack : Vector Word 16) (sp : Fin 17) :
    s.identicalBut [.stack, .sp] (s.setStack stack sp) := by
  intro p hp
  cases p <;> simp_all [Part.identical, Part.same]

/-- Setting the stack to itself moves `SP` alone, as a pop does (decision D16). -/
theorem setStack_self_identicalBut (s : State) (sp : Fin 17) : s.identicalBut [.sp] (s.setStack s.stack sp) := by
  intro p hp
  cases p <;> simp_all [Part.identical, Part.same]

theorem setDt_identicalBut (s : State) (b : Byte) : s.identicalBut [.dt] (s.setDt b) := by
  intro p hp
  cases p <;> simp_all [Part.identical, Part.same]

theorem setSt_identicalBut (s : State) (b : Byte) : s.identicalBut [.st] (s.setSt b) := by
  intro p hp
  cases p <;> simp_all [Part.identical, Part.same]

theorem setFb_identicalBut (s : State) (fb : Framebuffer) : s.identicalBut [.fb] (s.setFb fb) := by
  intro p hp
  cases p <;> simp_all [Part.identical, Part.same]

theorem raise_identicalBut (s : State) (c : Fatal) : s.identicalBut [.status] (raise s c) := by
  intro p hp
  cases p <;> simp_all [Part.identical, Part.same]

theorem writeFlagThenResult_identicalBut (s : State) (x : Nibble) (flag result : Byte) :
    s.identicalBut [.v] (writeFlagThenResult s x flag result) := by
  intro p hp
  cases p <;> simp_all [Part.identical, Part.same]

theorem skipIf_identicalBut (b : Bool) (s : State) : s.identicalBut [.pc] (skipIf b s) := by
  intro p hp
  cases p <;> simp_all [Part.identical, Part.same]

theorem loadRegisters_identicalBut (s : State) (count : Nat) : s.identicalBut [.v] (loadRegisters s count) := by
  intro p hp
  cases p <;> simp_all [Part.identical, Part.same]

/-! ## Shared forms of the instructions -/

/-- The form `Ex9E` and `ExA1` share: skip when the level of the key that `V[x]` names passes `test` (R160, R161). -/
def skipOnKey (test : Bool → Bool) (x : Nibble) (s : State) : Result :=
  match keyOperand s x with
  | some k => .next (skipIf (test (keyPressed s k)) s)
  | none => .next (raise s (keyOutOfBounds s x))

theorem exec_skp (x : Nibble) (s : State) : exec (.skp x) s = skipOnKey id x s := rfl

theorem exec_sknp (x : Nibble) (s : State) : exec (.sknp x) s = skipOnKey not x s := rfl

theorem sp_eq_zero_of_not_pos {s : State} (h : ¬ 0 < s.sp.val) : s.sp = 0 := Fin.ext (Nat.eq_zero_of_not_pos h)

theorem sp_eq_sixteen_of_not_lt {s : State} (h : ¬ s.sp.val < 16) : s.sp = 16 := by
  have := s.sp.isLt
  exact Fin.ext (show s.sp.val = 16 by omega)

/-! ## What an execute phase leaves identical -/

/-- The execute phase from `s` completes or halts, and only the listed parts differ from `s`. -/
def Result.changesOnly (s : State) (changed : List Part) : Result → Prop
  | .next t => s.identicalBut changed t
  | .fault _ | .refused _ => False

/-- A guarded write that raises a fatal condition when its guard fails also writes `STATUS`. -/
theorem changesOnly_ite_raise {s t : State} {changed : List Part} (c : Prop) [Decidable c] (reason : Fatal)
    (h : s.identicalBut changed t) :
    Result.changesOnly s (.status :: changed) (if c then .next t else .next (raise s reason)) := by
  split
  · exact fun p hp => h p (List.not_mem_of_not_mem_cons hp)
  · exact fun p hp => raise_identicalBut s reason p (by simp_all)

theorem execRet_changesOnly (s : State) : (execRet s).changesOnly s [.sp, .pc, .status] := by
  unfold execRet
  by_cases h : 0 < s.sp.val
  · rw [pop_eq h (by omega)]
    exact ((setStack_self_identicalBut s _).trans (setPc_identicalBut _ _)).mono (by simp)
  · rw [pop_empty (sp_eq_zero_of_not_pos h)]
    exact (raise_identicalBut s _).mono (by simp)

theorem execCall_changesOnly (nnn : Addr12) (s : State) :
    (execCall nnn s).changesOnly s [.stack, .sp, .pc, .status] := by
  unfold execCall
  by_cases h : s.sp.val < 16
  · rw [push_eq h]
    exact ((setStack_identicalBut s _ _).trans (setPc_identicalBut _ _)).mono (by simp)
  · rw [push_full (sp_eq_sixteen_of_not_lt h)]
    exact (raise_identicalBut s _).mono (by simp)

theorem skipOnKey_changesOnly (test : Bool → Bool) (x : Nibble) (s : State) :
    (skipOnKey test x s).changesOnly s [.pc, .status] := by
  unfold skipOnKey
  split
  · exact (skipIf_identicalBut _ s).mono (by simp)
  · exact (raise_identicalBut s _).mono (by simp)

theorem execLdVxK_changesOnly (x : Nibble) (s : State) : (execLdVxK x s).changesOnly s [.v, .pc] := by
  unfold execLdVxK
  split
  · exact (writeV_identicalBut s x _).mono (by simp)
  · exact (setPc_identicalBut s _).mono (by simp)

theorem execDrw_changesOnly (x y n : Nibble) (s : State) : (execDrw x y n s).changesOnly s [.status, .fb, .v] :=
  changesOnly_ite_raise _ _ ((setFb_identicalBut s _).trans (writeV_identicalBut _ vf _))

/-- The mnemonics of the instructions that may change each part of the state (R14, R26). -/
def Part.writers : Part → List String
  | .v => ["LD_IMM", "ADD_IMM", "LD_REG", "OR", "AND", "XOR", "ADD_REG", "SUB", "SHR", "SUBN", "SHL", "RND", "DRW",
      "LD_VX_DT", "LD_VX_K", "LD_REGS"]
  | .i => ["LD_I", "ADD_I", "LD_F"]
  | .pc => ["RET", "JP", "CALL", "JPREL", "SE_IMM", "SNE_IMM", "SE_REG", "SNE_REG", "SKP", "SKNP", "LD_VX_K"]
  | .mem => ["LD_B", "ST_REGS"]
  | .stack => ["CALL"]
  | .sp => ["RET", "CALL"]
  | .dt => ["LD_DT_VX"]
  | .st => ["LD_ST_VX"]
  | .fb => ["CLS", "DRW"]
  | .status => ["RET", "CALL", "DRW", "LD_B", "ST_REGS", "LD_REGS", "SKP", "SKNP"]
  | .ir | .key | .rnd | .inputs => []

/-- The parts an instruction may change: `Part.writers` read from the instruction's side. -/
def writtenParts : Instr → List Part
  | .cls => [.fb]
  | .ret => [.sp, .pc, .status]
  | .call _ => [.stack, .sp, .pc, .status]
  | .jp _ | .jprel _ | .seImm _ _ | .sneImm _ _ | .seReg _ _ | .sneReg _ _ => [.pc]
  | .skp _ | .sknp _ => [.pc, .status]
  | .ldVxK _ => [.v, .pc]
  | .ldI _ | .addI _ | .ldF _ => [.i]
  | .drw _ _ _ => [.status, .fb, .v]
  | .ldB _ | .stRegs _ => [.status, .mem]
  | .ldRegs _ => [.status, .v]
  | .ldDtVx _ => [.dt]
  | .ldStVx _ => [.st]
  | .ldImm _ _ | .addImm _ _ | .ldReg _ _ | .or _ _ | .and _ _ | .xor _ _ | .addReg _ _ | .sub _ _ | .shr _ _
  | .subn _ _ | .shl _ _ | .rnd _ _ | .ldVxDt _ => [.v]

/-- R26: an execute phase completes or halts, and differs from its start only in what its instruction may write. -/
theorem exec_changesOnly (i : Instr) (s : State) : Result.changesOnly s (writtenParts i) (exec i s) := by
  cases i with
  | cls => exact setFb_identicalBut s _
  | ret => exact execRet_changesOnly s
  | call nnn => exact execCall_changesOnly nnn s
  | jp | jprel => exact setPc_identicalBut s _
  | seImm | sneImm | seReg | sneReg => exact skipIf_identicalBut _ s
  | skp x => exact exec_skp x s ▸ skipOnKey_changesOnly id x s
  | sknp x => exact exec_sknp x s ▸ skipOnKey_changesOnly not x s
  | ldVxK x => exact execLdVxK_changesOnly x s
  | ldI | addI | ldF => exact setI_identicalBut s _
  | drw x y n => exact execDrw_changesOnly x y n s
  | ldB | stRegs => exact changesOnly_ite_raise _ _ (setMem_identicalBut s _)
  | ldRegs => exact changesOnly_ite_raise _ _ (loadRegisters_identicalBut s _)
  | ldDtVx => exact setDt_identicalBut s _
  | ldStVx => exact setSt_identicalBut s _
  | ldImm | addImm | ldReg | or | and | xor | rnd | ldVxDt => exact writeV_identicalBut s _ _
  | addReg | sub | shr | subn | shl => exact writeFlagThenResult_identicalBut s _ _ _

theorem mnemonic_mem_writers {i : Instr} {p : Part} (h : p ∈ writtenParts i) : i.mnemonic ∈ p.writers := by
  revert p
  cases i <;> simp [writtenParts, Part.writers, Instr.mnemonic]

/-- A part of the state that does not list the instruction among its writers is left as it is. -/
theorem exec_identical {i : Instr} {s t : State} (h : exec i s = .next t) (p : Part)
    (other : i.mnemonic ∉ p.writers) : p.identical s t := by
  have frame := exec_changesOnly i s
  rw [h] at frame
  exact frame p (mt mnemonic_mem_writers other)

/-- Settles O51: each clause is `exec_identical` at one part of the state. -/
theorem eachPartHasItsWriters : Obligations.EachPartHasItsWriters := by
  intro i s t h
  refine ⟨exec_identical h .pc, exec_identical h .i, exec_identical h .sp, fun other => ?_, fun other => ?_,
    fun other => ?_, exec_identical h .fb, exec_identical h .mem, exec_identical h .status, fun p kept => ?_⟩
  · exact exec_identical h .stack (mt List.mem_singleton.mp other)
  · exact exec_identical h .dt (mt List.mem_singleton.mp other)
  · exact exec_identical h .st (mt List.mem_singleton.mp other)
  · have noWriters : p.writers = [] := by cases p <;> simp_all [Part.writers]
    exact (exec_identical h p (noWriters ▸ List.not_mem_nil)).same

/-! ## What the input ports reach -/

/-- The outcome with other values on the input ports of its state. -/
def Result.setInputs (r : Result) (key : BitVec 16) (rnd : Byte) (inputs : Nat) : Result :=
  match r with
  | .next t => .next (t.setInputs key rnd inputs)
  | .fault e => .fault e
  | .refused e => .refused e

section
variable (s : State) (key : BitVec 16) (rnd : Byte) (inputs : Nat)

theorem skipIf_setInputs (b : Bool) :
    skipIf b (s.setInputs key rnd inputs) = (skipIf b s).setInputs key rnd inputs := by
  cases b <;> rfl

theorem loadRegisters_setInputs (count : Nat) :
    loadRegisters (s.setInputs key rnd inputs) count = (loadRegisters s count).setInputs key rnd inputs :=
  List.foldl_hom (State.setInputs · key rnd inputs) fun _ _ => rfl

theorem setInputs_ite (c : Prop) [Decidable c] (a b : Result) :
    Result.setInputs (if c then a else b) key rnd inputs =
      if c then a.setInputs key rnd inputs else b.setInputs key rnd inputs :=
  apply_ite (Result.setInputs · key rnd inputs) c a b

theorem execRet_setInputs : execRet (s.setInputs key rnd inputs) = (execRet s).setInputs key rnd inputs := by
  by_cases h : 0 < s.sp.val
  · have below : s.sp.val - 1 < 16 := by omega
    rw [execRet, execRet, pop_eq h below, pop_eq (s := s.setInputs key rnd inputs) h below]
    rfl
  · have empty := sp_eq_zero_of_not_pos h
    rw [execRet, execRet, pop_empty empty, pop_empty (s := s.setInputs key rnd inputs) empty]
    rfl

theorem execCall_setInputs (nnn : Addr12) :
    execCall nnn (s.setInputs key rnd inputs) = (execCall nnn s).setInputs key rnd inputs := by
  by_cases h : s.sp.val < 16
  · rw [execCall, execCall, push_eq h, push_eq (s := s.setInputs key rnd inputs) h]
    rfl
  · have full := sp_eq_sixteen_of_not_lt h
    rw [execCall, execCall, push_full full, push_full (s := s.setInputs key rnd inputs) full]
    rfl

theorem execLdB_setInputs (x : Nibble) :
    execLdB x (s.setInputs key rnd inputs) = Result.setInputs (execLdB x s) key rnd inputs := by
  rw [execLdB, execLdB, setInputs_ite]
  rfl

theorem execStRegs_setInputs (x : Nibble) :
    execStRegs x (s.setInputs key rnd inputs) = Result.setInputs (execStRegs x s) key rnd inputs := by
  rw [execStRegs, execStRegs, setInputs_ite]
  rfl

theorem execDrw_setInputs (x y n : Nibble) :
    execDrw x y n (s.setInputs key rnd inputs) = Result.setInputs (execDrw x y n s) key rnd inputs := by
  rw [execDrw, execDrw, setInputs_ite]
  rfl

theorem execLdRegs_setInputs (x : Nibble) :
    execLdRegs x (s.setInputs key rnd inputs) = Result.setInputs (execLdRegs x s) key rnd inputs := by
  rw [execLdRegs, execLdRegs, setInputs_ite, loadRegisters_setInputs]
  rfl

/-! `SKP`, `SKNP` and `LD_VX_K` read `KEY`, so for them it keeps its value. -/

theorem skipOnKey_setInputs (test : Bool → Bool) (x : Nibble) :
    skipOnKey test x (s.setInputs s.key rnd inputs) = Result.setInputs (skipOnKey test x s) s.key rnd inputs := by
  have operand : keyOperand (s.setInputs s.key rnd inputs) x = keyOperand s x := rfl
  rw [skipOnKey, skipOnKey, operand]
  cases keyOperand s x with
  | none => rfl
  | some k => exact congrArg _ (skipIf_setInputs s s.key rnd inputs _)

theorem execLdVxK_setInputs (x : Nibble) :
    execLdVxK x (s.setInputs s.key rnd inputs) = Result.setInputs (execLdVxK x s) s.key rnd inputs := by
  have pressed : lowestPressedKey (s.setInputs s.key rnd inputs) = lowestPressedKey s := rfl
  rw [execLdVxK, execLdVxK, pressed]
  cases lowestPressedKey s <;> rfl

/-- R21, R82: the result is the same with other inputs, when `KEY` stays for an instruction that reads it and `rnd`
for the one that does. -/
theorem exec_setInputs (i : Instr) (keyKept : i.mnemonic ∈ ["SKP", "SKNP", "LD_VX_K"] → key = s.key)
    (rndKept : i.mnemonic = "RND" → rnd = s.rnd) :
    exec i (s.setInputs key rnd inputs) = Result.setInputs (exec i s) key rnd inputs := by
  cases i with
  | ret => exact execRet_setInputs s key rnd inputs
  | call nnn => exact execCall_setInputs s key rnd inputs nnn
  | seImm | sneImm | seReg | sneReg => exact congrArg _ (skipIf_setInputs s key rnd inputs _)
  | rnd x kk =>
    obtain rfl := rndKept rfl
    rfl
  | skp x =>
    obtain rfl := keyKept (by simp [Instr.mnemonic])
    rw [exec_skp, exec_skp]
    exact skipOnKey_setInputs s rnd inputs id x
  | sknp x =>
    obtain rfl := keyKept (by simp [Instr.mnemonic])
    rw [exec_sknp, exec_sknp]
    exact skipOnKey_setInputs s rnd inputs not x
  | ldVxK x =>
    obtain rfl := keyKept (by simp [Instr.mnemonic])
    exact execLdVxK_setInputs s rnd inputs x
  | drw x y n => exact execDrw_setInputs s key rnd inputs x y n
  | ldB x => exact execLdB_setInputs s key rnd inputs x
  | stRegs x => exact execStRegs_setInputs s key rnd inputs x
  | ldRegs x => exact execLdRegs_setInputs s key rnd inputs x
  | cls | jp | jprel | ldImm | addImm | ldReg | or | and | xor | addReg | sub | shr | subn | shl | ldI | ldVxDt
  | ldDtVx | ldStVx | addI | ldF => rfl
end

/-- R81, R82: the host and the random source write the input ports, an execute phase never does. -/
theorem exec_ports_unchanged {i : Instr} {s t : State} (h : exec i s = .next t) :
    t.key = s.key ∧ t.rnd = s.rnd ∧ t.inputs = s.inputs :=
  ⟨exec_identical h .key List.not_mem_nil, exec_identical h .rnd List.not_mem_nil,
    exec_identical h .inputs List.not_mem_nil⟩

/-- Settles O53: `exec_setInputs`, where the input not replaced is still `s`'s own in `t` by `exec_ports_unchanged`. -/
theorem inputsReachOnlyTheirInstructions : Obligations.InputsReachOnlyTheirInstructions := by
  refine ⟨fun i s t key other h => ?_, fun i s t rnd other h => ?_⟩
  all_goals obtain ⟨sameKey, sameRnd, sameInputs⟩ := exec_ports_unchanged h
  · rw [exec_setInputs s key s.rnd s.inputs i (fun reads => absurd reads other) fun _ => rfl, h, sameRnd, sameInputs]
    rfl
  · rw [exec_setInputs s s.key rnd s.inputs i (fun _ => rfl) fun reads => absurd reads other, h, sameKey, sameInputs]
    rfl

end Sys2Proof.Machine
end

section
/-! SUPPORT. What the fetch leaves, as numbers, and its frame (spec/20_memory.md R43, R45, spec/40_step_cycle.md R84).
Settles O6. -/

namespace Sys2Proof.Machine

/-- R43: the byte at the lower address is the more significant one, at every address, even or odd. -/
theorem readWord_toNat (m : Memory) (a : Nat) :
    (m.readWord a).toNat = (m.read a).toNat * 256 + (m.read (a + 1)).toNat :=
  wordOfBytes_toNat _ _

theorem setIr_identicalBut (s : State) (w : Word) : s.identicalBut [.ir] (s.setIr w) := by
  intro p hp
  cases p <;> simp_all [Part.identical, Part.same]

/-- R84: the fetch phase writes `IR` and `PC` alone. -/
theorem atExecute_identicalBut (s : State) : s.identicalBut [.ir, .pc] s.atExecute :=
  (setIr_identicalBut s s.nextWord).trans (setPc_identicalBut _ (s.pc + 2#16))

/-- Settles O6: the fetch yields `atExecute`, whose `IR` is the word at `PC`; `PC` never reaches the modulus. -/
theorem fetchReadsBigEndianWord : Obligations.FetchReadsBigEndianWord := by
  intro s inRange
  refine ⟨s.atExecute, fetch_of_le inRange, ?_, atExecute_pc_toNat inRange, fun p kept => ?_⟩
  · rw [atExecute_ir]
    exact readWord_toNat s.mem s.pc.toNat
  · exact (atExecute_identicalBut s p kept).same

end Sys2Proof.Machine
end

section
/-! SUPPORT. The fields of a word as numbers, and of a word made of two bytes (spec/30_encoding.md R61). Settles O2. -/

namespace Sys2Proof.Machine

/-- R61: every field is a run of bits, so as a number it is a quotient by the weight of its lowest bit, cut to its
width. -/
theorem extractLsb'_toNat_div (w : Word) (start len : Nat) :
    (w.extractLsb' start len).toNat = w.toNat / 2 ^ start % 2 ^ len := by
  rw [BitVec.extractLsb'_toNat, Nat.shiftRight_eq_div_pow]

/-- R61: a field that ends at bit 0 is a remainder alone. -/
theorem extractLsb'_zero_toNat (w : Word) (len : Nat) : (w.extractLsb' 0 len).toNat = w.toNat % 2 ^ len := by
  rw [extractLsb'_toNat_div, Nat.pow_zero, Nat.div_one]

theorem fieldOp_toNat (w : Word) : (fieldOp w).toNat = w.toNat / 4096 := by
  have quotientIsDigit : w.toNat / 4096 < 16 := Nat.div_lt_of_lt_mul w.isLt
  exact (extractLsb'_toNat_div w 12 4).trans (Nat.mod_eq_of_lt quotientIsDigit)

theorem fieldX_toNat (w : Word) : (fieldX w).toNat = w.toNat / 256 % 16 := extractLsb'_toNat_div w 8 4

theorem fieldY_toNat (w : Word) : (fieldY w).toNat = w.toNat / 16 % 16 := extractLsb'_toNat_div w 4 4

theorem fieldN_toNat (w : Word) : (fieldN w).toNat = w.toNat % 16 := extractLsb'_zero_toNat w 4

theorem fieldKk_toNat (w : Word) : (fieldKk w).toNat = w.toNat % 256 := extractLsb'_zero_toNat w 8

theorem fieldNnn_toNat (w : Word) : (fieldNnn w).toNat = w.toNat % 4096 := extractLsb'_zero_toNat w 12

/-- R61: byte 1 is `kk`. -/
@[simp] theorem fieldKk_wordOfBytes (high low : Byte) : fieldKk (wordOfBytes high low) = low := by
  apply BitVec.eq_of_toNat_eq
  have := low.isLt
  rw [fieldKk_toNat, wordOfBytes_toNat]
  omega

/-- Settles O2: each field's quotient and remainder, of the word and of `high * 256 + low`. -/
theorem fieldsAreTheirDigits : Obligations.FieldsAreTheirDigits := by
  refine ⟨fun w => ⟨fieldOp_toNat w, fieldX_toNat w, fieldY_toNat w, fieldN_toNat w, fieldKk_toNat w,
    fieldNnn_toNat w⟩, fun high low => ?_⟩
  have highLt := high.isLt
  have lowLt := low.isLt
  rw [fieldOp_toNat, fieldX_toNat, fieldY_toNat, fieldN_toNat, fieldNnn_toNat, wordOfBytes_toNat]
  refine ⟨?op, ?x, ?y, ?n, fieldKk_wordOfBytes high low, ?nnn⟩
  all_goals omega

end Sys2Proof.Machine
end

section
/-! SUPPORT. A transfer to an absolute address (spec/41_control_transfer.md R101). Settles O17. -/

namespace Sys2Proof.Machine

/-- A frame with memory compared as data is also one with memory compared byte for byte. -/
theorem State.identicalBut.unchangedBut {s t : State} {changed : List Part} (h : s.identicalBut changed t) :
    s.unchangedBut changed t :=
  fun p kept => (h p kept).same

theorem exec_jp (nnn : Addr12) (s : State) : exec (.jp nnn) s = .next (s.setPc (nnnOperand nnn)) := rfl

/-- Settles O17: the jump only sets `PC`, to the operand, and zero extension keeps the operand's value. -/
theorem jumpIsAbsolute : Obligations.JumpIsAbsolute := by
  intro nnn s
  have target : (s.setPc (nnnOperand nnn)).pc.toNat = nnn.toNat := by
    rw [State.setPc_pc, nnnOperand_toNat]
  exact ⟨s.setPc (nnnOperand nnn), exec_jp nnn s, target, (setPc_identicalBut s _).unchangedBut⟩

end Sys2Proof.Machine
end

section
/-! SUPPORT. The execute phase that is one conditional skip (spec/42_skips.md R110 to R114). Settles O22. -/

namespace Sys2Proof.Machine

/-- R114: the distance a skip adds to the advanced `PC`, which wraps at 65536. -/
theorem skipIf_pc_toNat (b : Bool) (s : State) :
    (skipIf b s).pc.toNat = (s.pc.toNat + if b then 2 else 0) % 65536 := by
  rw [skipIf_pc]
  cases b
  case false => exact (Nat.mod_eq_of_lt s.pc.isLt).symm
  case true => exact BitVec.toNat_add s.pc 2#16

/-- An execute phase that is a skip on `b` completes, adds to `PC` the distance that `b` stands for, and changes nothing
else. -/
theorem exec_skips {i : Instr} {s : State} {b : Bool} {distance : Nat} (isSkip : exec i s = .next (skipIf b s))
    (reach : (if b then 2 else 0) = distance) :
    ∃ t, exec i s = .next t ∧ t.pc.toNat = (s.pc.toNat + distance) % 65536 ∧ s.unchangedBut [.pc] t :=
  ⟨skipIf b s, isSkip, reach ▸ skipIf_pc_toNat b s, skipIf_frame b s⟩

theorem exec_seImm (x : Nibble) (kk : Byte) (s : State) :
    exec (.seImm x kk) s = .next (skipIf (s.readV x == kk) s) := rfl

theorem exec_sneImm (x : Nibble) (kk : Byte) (s : State) :
    exec (.sneImm x kk) s = .next (skipIf (s.readV x != kk) s) := rfl

theorem exec_seReg (x y : Nibble) (s : State) :
    exec (.seReg x y) s = .next (skipIf (s.readV x == s.readV y) s) := rfl

theorem exec_sneReg (x y : Nibble) (s : State) :
    exec (.sneReg x y) s = .next (skipIf (s.readV x != s.readV y) s) := rfl

/-- R110, R112: the distance of a skip on equality. -/
theorem distance_of_beq (a b : Byte) : (if a == b then 2 else 0) = if a = b then 2 else 0 := by
  simp only [beq_iff_eq]

/-- R111, R113: the distance of a skip on difference. -/
theorem distance_of_bne (a b : Byte) : (if a != b then 2 else 0) = if a = b then 0 else 2 := by
  simp only [bne_iff_ne, ne_eq, ite_not]

/-- Settles O22: each of the four is a skip, two on equality and two on difference, of a register and an immediate or
of two registers. -/
theorem registerSkips : Obligations.RegisterSkips := by
  refine ⟨fun x kk s => ?seImm, fun x kk s => ?sneImm, fun x y s => ?seReg, fun x y s => ?sneReg⟩
  case seImm => exact exec_skips (exec_seImm x kk s) (distance_of_beq _ _)
  case sneImm => exact exec_skips (exec_sneImm x kk s) (distance_of_bne _ _)
  case seReg => exact exec_skips (exec_seReg x y s) (distance_of_beq _ _)
  case sneReg => exact exec_skips (exec_sneReg x y s) (distance_of_bne _ _)

end Sys2Proof.Machine
end

section
/-! SUPPORT. The execute phase that writes one register and no flag (spec/43_alu.md R121 to R126, R132). Settles O23,
O24, O25 and O30. -/

namespace Sys2Proof.Machine

/-! ## What each of these instructions writes -/

theorem exec_ldImm (x : Nibble) (kk : Byte) (s : State) : exec (.ldImm x kk) s = .next (s.writeV x kk) := rfl

theorem exec_addImm (x : Nibble) (kk : Byte) (s : State) :
    exec (.addImm x kk) s = .next (s.writeV x (s.readV x + kk)) := rfl

theorem exec_ldReg (x y : Nibble) (s : State) : exec (.ldReg x y) s = .next (s.writeV x (s.readV y)) := rfl

theorem exec_or (x y : Nibble) (s : State) : exec (.or x y) s = .next (s.writeV x (s.readV x ||| s.readV y)) := rfl

theorem exec_and (x y : Nibble) (s : State) : exec (.and x y) s = .next (s.writeV x (s.readV x &&& s.readV y)) := rfl

theorem exec_xor (x y : Nibble) (s : State) : exec (.xor x y) s = .next (s.writeV x (s.readV x ^^^ s.readV y)) := rfl

theorem exec_rnd (x : Nibble) (kk : Byte) (s : State) : exec (.rnd x kk) s = .next (s.writeV x (s.rnd &&& kk)) := rfl

/-! ## A write of one register, and its frame -/

/-- R10: writing a register changes no other one, `VF` included unless it is the one written. -/
theorem writeV_registersBut (s : State) (x : Nibble) (result : Byte) : s.registersBut [x] (s.writeV x result) :=
  fun _ other => State.readV_writeV_other s result (List.ne_of_not_mem_cons other)

/-- An execute phase that is a write of `result` to `V[x]` completes with it there, and changes nothing else. -/
theorem exec_writesRegister {i : Instr} {s : State} {x : Nibble} {result : Byte}
    (isWrite : exec i s = .next (s.writeV x result)) :
    ∃ t, exec i s = .next t ∧ t.readV x = result ∧ s.registersBut [x] t ∧ s.unchangedBut [.v] t :=
  ⟨s.writeV x result, isWrite, State.readV_writeV_same s x result, writeV_registersBut s x result,
    (writeV_identicalBut s x result).unchangedBut⟩

/-- The same, for a result known by its bits. -/
theorem exec_writesBits {i : Instr} {s : State} {x : Nibble} {result : Byte} {bit : Nat → Bool}
    (isWrite : exec i s = .next (s.writeV x result)) (bits : ∀ b, result.getLsbD b = bit b) :
    ∃ t, exec i s = .next t ∧ (∀ b, (t.readV x).getLsbD b = bit b) ∧ s.registersBut [x] t ∧
      s.unchangedBut [.v] t := by
  obtain ⟨t, completes, rfl, registers, parts⟩ := exec_writesRegister isWrite
  exact ⟨t, completes, bits, registers, parts⟩

/-! ## The obligations -/

/-- Settles O23: both are one register write, of the immediate and of `V[y]`. -/
theorem loadsAndMoves : Obligations.LoadsAndMoves :=
  ⟨fun x kk s => exec_writesRegister (exec_ldImm x kk s), fun x y s => exec_writesRegister (exec_ldReg x y s)⟩

/-- Settles O24: the one register write is of the 8-bit sum, which is the sum modulo 256. -/
theorem addImmediateWrapsWithoutFlag : Obligations.AddImmediateWrapsWithoutFlag := by
  intro x kk s
  obtain ⟨t, completes, sum, registers, parts⟩ := exec_writesRegister (exec_addImm x kk s)
  refine ⟨t, completes, ?_, registers, parts⟩
  rw [sum]
  exact BitVec.toNat_add (s.readV x) kk

/-- Settles O25: each of the three is one register write, of a result that the library gives bit by bit. -/
theorem logicLeavesFlagAlone : Obligations.LogicLeavesFlagAlone := by
  refine ⟨fun x y s => ?or, fun x y s => ?and, fun x y s => ?xor⟩
  case or => exact exec_writesBits (exec_or x y s) fun _ => BitVec.getLsbD_or
  case and => exact exec_writesBits (exec_and x y s) fun _ => BitVec.getLsbD_and
  case xor => exact exec_writesBits (exec_xor x y s) fun _ => BitVec.getLsbD_xor

/-- Settles O30: the one register write is of the random byte masked by `kk`, whatever the byte is; a mask of 0 leaves
no bit. -/
theorem randomByteIsMasked : Obligations.RandomByteIsMasked := by
  intro x kk s
  obtain ⟨t, completes, masked, registers, parts⟩ := exec_writesRegister (exec_rnd x kk s)
  refine ⟨t, completes, fun b => ?bits, fun zeroMask => ?zero, registers, parts⟩
  case bits => rw [masked, BitVec.getLsbD_and]
  case zero => rw [masked, zeroMask, BitVec.and_zero]

end Sys2Proof.Machine
end

section
/-! SUPPORT. The execute phase that writes the index register alone (spec/44_index_memory.md R140, R141). Settles O31
and O32. -/

namespace Sys2Proof.Machine

theorem exec_ldI (nnn : Addr12) (s : State) : exec (.ldI nnn) s = .next (s.setI (nnnOperand nnn)) := rfl

theorem exec_addI (x : Nibble) (s : State) : exec (.addI x) s = .next (s.setI (s.i + wideOperand s x)) := rfl

/-- An execute phase that is a write of `w` to `I` completes with `w` there, and changes nothing else: no general
register, so no flag. -/
theorem exec_writesIndex {i : Instr} {s : State} {w : Word} (isWrite : exec i s = .next (s.setI w)) :
    ∃ t, exec i s = .next t ∧ t.i = w ∧ s.unchangedBut [.i] t :=
  ⟨s.setI w, isWrite, State.setI_i s w, (setI_identicalBut s w).unchangedBut⟩

/-- Settles O31: the one write of `I` is of the operand, and zero extension keeps the operand's value. -/
theorem loadIndex : Obligations.LoadIndex := by
  intro nnn s
  obtain ⟨t, completes, address, parts⟩ := exec_writesIndex (exec_ldI nnn s)
  refine ⟨t, completes, ?_, parts⟩
  rw [address, nnnOperand_toNat]

/-- Settles O32: the one write of `I` is of the 16-bit sum with the zero-extended register, which is the sum modulo
65536. -/
theorem addIndexWrapsWithoutFlag : Obligations.AddIndexWrapsWithoutFlag := by
  intro x s
  obtain ⟨t, completes, sum, parts⟩ := exec_writesIndex (exec_addI x s)
  refine ⟨t, completes, ?_, parts⟩
  rw [sum, BitVec.toNat_add, wideOperand_toNat]

end Sys2Proof.Machine
end

section
/-! SUPPORT. The execute phase that clears the screen (spec/45_display.md R150). Settles O40. -/

namespace Sys2Proof.Machine

theorem exec_cls (s : State) : exec .cls s = .next (s.setFb Framebuffer.clear) := rfl

/-- Settles O40: the one write is of the framebuffer, and the one written has every pixel clear. -/
theorem clearScreenClearsEveryPixel : Obligations.ClearScreenClearsEveryPixel := by
  intro s
  have blank (r c : Nat) : (s.setFb Framebuffer.clear).fb.pixel r c = false := by
    rw [State.setFb_fb, pixel_clear]
  exact ⟨s.setFb Framebuffer.clear, exec_cls s, blank, (setFb_identicalBut s _).unchangedBut⟩

end Sys2Proof.Machine
end

section
/-! SUPPORT. The step of an instruction that completes, the keypad's wait and the transfers of the timers
(spec/40_step_cycle.md R87, R88, spec/46_keypad_timers.md R162 to R165). Settles O45, O46 and O47. -/

namespace Sys2Proof.Machine

/-! ## The step whose execute phase completes -/

theorem setInputs_identicalBut (s : State) (key : BitVec 16) (rnd : Byte) (inputs : Nat) :
    s.identicalBut [.key, .rnd, .inputs] (s.setInputs key rnd inputs) := by
  intro p hp
  cases p <;> simp_all [Part.identical, Part.same]

theorem tick_identicalBut (s : State) : s.identicalBut [.dt, .st] s.tick :=
  (setDt_identicalBut s _).trans (setSt_identicalBut _ _)

theorem presentInputs_identicalBut (s : State) : s.identicalBut [.key, .rnd, .inputs] s.presentInputs :=
  setInputs_identicalBut s _ _ _

/-- R85, R86, R88: a machine about to run `i` runs `i` from the state the fetch leaves, and then ends the step. -/
theorem step_of_exec {s u : State} {i : Instr} (about : s.aboutToRun i) (executes : exec i s.atExecute = .next u) :
    step s = .next (finishStep u) := by
  obtain ⟨running, inRange, decodes⟩ := about
  simp [step, cycle, decodeAndExecute, running, fetch_of_le inRange, decodes, executes]

/-- R87: a step whose execute phase completes in `u` counts down the timers of `u`, and besides them changes the input
ports alone. -/
theorem step_of_completed {s u : State} {i : Instr} (about : s.aboutToRun i)
    (executes : exec i s.atExecute = .next u) (completed : u.status = .running) :
    ∃ t, step s = .next t ∧ t.dt.toNat = u.dt.toNat - 1 ∧ t.st.toNat = u.st.toNat - 1 ∧
      u.identicalBut [.dt, .st, .key, .rnd, .inputs] t := by
  refine ⟨u.tick.presentInputs, ?_, tickTimer_toNat u.dt, tickTimer_toNat u.st,
    (tick_identicalBut u).trans (presentInputs_identicalBut _)⟩
  rw [step_of_exec about executes, finishStep_running completed]

/-- A frame that covers the register file covers each register. -/
theorem State.identicalBut.readV_eq {s t : State} {changed : List Part} (h : s.identicalBut changed t)
    (kept : Part.v ∉ changed) (x : Nibble) : t.readV x = s.readV x := by
  have sameFile : t.v = s.v := h .v kept
  rw [State.readV, State.readV, sameFile]

/-! ## The wait for a key -/

theorem lowestPressedKey_of_none {s : State} (noKey : s.key = 0#16) : lowestPressedKey s = none := by
  refine List.find?_range_eq_none.mpr fun k _ => ?_
  simp [keyPressed, noKey]

theorem lowestPressedKey_of_lowest {s : State} {k : Nat} (bound : k < 16) (pressed : s.key.getLsbD k = true)
    (lowest : ∀ j, j < k → s.key.getLsbD j = false) : lowestPressedKey s = some k := by
  refine List.find?_range_eq_some.mpr ⟨pressed, List.mem_range.mpr bound, fun j below => ?_⟩
  simp [keyPressed, lowest j below]

theorem exec_ldVxK_of_none {s : State} (x : Nibble) (noKey : s.key = 0#16) :
    exec (.ldVxK x) s = .next (s.setPc (s.pc - 2#16)) := by
  simp [exec, execLdVxK, lowestPressedKey_of_none noKey]

theorem exec_ldVxK_of_lowest {s : State} {k : Nat} (x : Nibble) (bound : k < 16)
    (pressed : s.key.getLsbD k = true) (lowest : ∀ j, j < k → s.key.getLsbD j = false) :
    exec (.ldVxK x) s = .next (s.writeV x (BitVec.ofNat 8 k)) := by
  simp [exec, execLdVxK, lowestPressedKey_of_lowest bound pressed lowest]

/-- R162: going back by one instruction undoes the advance of the fetch, so only `IR` is left loaded. -/
theorem atExecute_setPc_back (s : State) : s.atExecute.setPc (s.atExecute.pc - 2#16) = s.setIr s.nextWord := by
  rw [atExecute_pc, BitVec.add_sub_cancel]
  rfl

/-- R162: going back by one instruction, as a number that wraps at 65536. -/
theorem pc_back_toNat (pc : Word) : (pc - 2#16).toNat = (pc.toNat + 65536 - 2) % 65536 := by
  rw [BitVec.toNat_sub, BitVec.toNat_ofNat]
  omega

/-- Settles O45: without a key the execute phase only takes `PC` back, so its step is the reload of `IR` and the tick;
with keys pressed it writes the lowest one, which a byte holds. -/
theorem keyWaitPollsEachStep : Obligations.KeyWaitPollsEachStep := by
  refine ⟨fun x s noKey => ?waits, fun x s k bound pressed lowest => ?reads, fun x s about noKey => ?polls⟩
  case waits =>
    exact ⟨_, exec_ldVxK_of_none x noKey, pc_back_toNat s.pc, (setPc_identicalBut s _).unchangedBut⟩
  case reads =>
    obtain ⟨t, completes, key, registers, parts⟩ :=
      exec_writesRegister (exec_ldVxK_of_lowest x bound pressed lowest)
    refine ⟨t, completes, ?_, registers, parts⟩
    rw [key, BitVec.toNat_ofNat]
    omega
  case polls =>
    have executes : exec (.ldVxK x) s.atExecute = .next (s.setIr s.nextWord) := by
      rw [exec_ldVxK_of_none (s := s.atExecute) x noKey, atExecute_setPc_back]
    obtain ⟨t, steps, delay, sound, frame⟩ := step_of_completed about executes about.1
    exact ⟨t, steps, frame .ir (by decide), delay, sound, ((setIr_identicalBut s _).trans frame).unchangedBut⟩

/-! ## The transfers of the timers -/

theorem exec_ldVxDt (x : Nibble) (s : State) : exec (.ldVxDt x) s = .next (s.writeV x s.dt) := rfl

theorem exec_ldDtVx (x : Nibble) (s : State) : exec (.ldDtVx x) s = .next (s.setDt (s.readV x)) := rfl

theorem exec_ldStVx (x : Nibble) (s : State) : exec (.ldStVx x) s = .next (s.setSt (s.readV x)) := rfl

/-- Settles O46: the one register write is of `DT` before the tick, and the tick leaves the registers alone. -/
theorem readsDelayTimerBeforeTick : Obligations.ReadsDelayTimerBeforeTick := by
  refine ⟨fun x s => exec_writesRegister (exec_ldVxDt x s), fun x s about => ?_⟩
  obtain ⟨t, steps, delay, -, frame⟩ := step_of_completed about (exec_ldVxDt x s.atExecute) about.1
  refine ⟨t, steps, ?_, delay⟩
  rw [frame.readV_eq (by decide), State.readV_writeV_same, atExecute_dt]

/-- Settles O47: each of the two writes its timer alone, and the tick of the step is of the value written. -/
theorem setsTimersBeforeTick : Obligations.SetsTimersBeforeTick := by
  refine ⟨fun x s => ?setsDelay, fun x s => ?setsSound, fun x s about => ?ticksDelay, fun x s about => ?ticksSound⟩
  case setsDelay => exact ⟨_, exec_ldDtVx x s, State.setDt_dt s _, (setDt_identicalBut s _).unchangedBut⟩
  case setsSound => exact ⟨_, exec_ldStVx x s, State.setSt_st s _, (setSt_identicalBut s _).unchangedBut⟩
  case ticksDelay =>
    obtain ⟨t, steps, delay, -, -⟩ := step_of_completed about (exec_ldDtVx x s.atExecute) about.1
    exact ⟨t, steps, delay⟩
  case ticksSound =>
    obtain ⟨t, steps, -, sound, -⟩ := step_of_completed about (exec_ldStVx x s.atExecute) about.1
    exact ⟨t, steps, sound⟩

end Sys2Proof.Machine
end

section
/-! SUPPORT. The fields of a packed word and the word its own fields pack (spec/30_encoding.md R61, R62). -/

namespace Sys2Proof.Machine

/-! ## The fields of a packed word -/

section
variable (op x y n : Nibble) (kk : Byte) (nnn : Addr12)

@[simp] theorem fieldOp_packNnn : fieldOp (packNnn op nnn) = op := BitVec.extractLsb'_append_eq_left

@[simp] theorem fieldNnn_packNnn : fieldNnn (packNnn op nnn) = nnn := BitVec.extractLsb'_append_eq_right

@[simp] theorem fieldOp_packXkk : fieldOp (packXkk op x kk) = op :=
  (BitVec.extractLsb'_append_eq_of_le (by decide)).trans BitVec.extractLsb'_append_eq_left

@[simp] theorem fieldX_packXkk : fieldX (packXkk op x kk) = x :=
  (BitVec.extractLsb'_append_eq_of_le (by decide)).trans BitVec.extractLsb'_append_eq_right

@[simp] theorem fieldKk_packXkk : fieldKk (packXkk op x kk) = kk := BitVec.extractLsb'_append_eq_right

/-- Format XY is format XKK with the byte `kk` made of two nibbles. -/
theorem packXy_eq_packXkk : packXy op x y n = packXkk op x (y ++ n : BitVec 8) := rfl

@[simp] theorem fieldOp_packXy : fieldOp (packXy op x y n) = op := fieldOp_packXkk op x _

@[simp] theorem fieldX_packXy : fieldX (packXy op x y n) = x := fieldX_packXkk op x _

@[simp] theorem fieldY_packXy : fieldY (packXy op x y n) = y :=
  (BitVec.extractLsb'_append_eq_of_add_le (by decide)).trans BitVec.extractLsb'_append_eq_left

@[simp] theorem fieldN_packXy : fieldN (packXy op x y n) = n :=
  (BitVec.extractLsb'_append_eq_of_add_le (by decide)).trans BitVec.extractLsb'_append_eq_right
end

/-! ## A word is packed from its fields -/

section
variable {w : Word} {op n : Nibble} {kk : Byte}

theorem packNnn_of_fieldOp (hop : fieldOp w = op) : packNnn op (fieldNnn w) = w := by
  rw [← hop]
  exact (BitVec.extractLsb'_append_extractLsb'_eq_extractLsb' rfl).trans BitVec.extractLsb'_eq_self

theorem packXkk_of_fields (hop : fieldOp w = op) (hkk : fieldKk w = kk) : packXkk op (fieldX w) kk = w := by
  have highFields : (fieldOp w ++ fieldX w : BitVec 8) = w.extractLsb' 8 8 :=
    BitVec.extractLsb'_append_extractLsb'_eq_extractLsb' rfl
  rw [← hop, ← hkk, packXkk, highFields]
  exact (BitVec.extractLsb'_append_extractLsb'_eq_extractLsb' rfl).trans BitVec.extractLsb'_eq_self

theorem packXy_of_fields (hop : fieldOp w = op) (hn : fieldN w = n) : packXy op (fieldX w) (fieldY w) n = w := by
  have lowFields : (fieldY w ++ fieldN w : BitVec 8) = fieldKk w :=
    BitVec.extractLsb'_append_extractLsb'_eq_extractLsb' rfl
  rw [← hn, packXy_eq_packXkk, lowFields]
  exact packXkk_of_fields hop rfl
end

/-- R43: the two bytes of a word make the word again. -/
theorem wordOfBytes_highByte_lowByte (w : Word) : wordOfBytes (highByte w) (lowByte w) = w :=
  (BitVec.extractLsb'_append_extractLsb'_eq_extractLsb' rfl).trans BitVec.extractLsb'_eq_self

end Sys2Proof.Machine
end

section
/-! SUPPORT. The decoder and the encoder undo each other (spec/30_encoding.md sections 1 and 3). Settles O3, O4 and
O5. -/

namespace Sys2Proof.Machine

/-- R64: the decoder reads an instruction from its own word. -/
theorem decode_encode (i : Instr) : decode (encode i) = .ok i := by
  cases i with
  | cls | ret => rfl
  | jp | call | ldI | jprel => simp [encode, decode]
  | seImm | sneImm | ldImm | addImm | rnd => simp [encode, decode]
  | seReg | sneReg | drw => simp [encode, decode]
  | ldReg | or | and | xor | addReg | sub | shr | subn | shl => simp [encode, decode, decode8]
  | skp | sknp => simp [encode, decode, decodeE]
  | ldVxDt | ldVxK | ldDtVx | ldStVx | addI | ldF | ldB | stRegs | ldRegs => simp [encode, decode, decodeF]

theorem decodeBytes_of_decode {w : Word} {i : Instr} (reads : decode w = .ok i) (rest : List Byte) :
    decodeBytes (highByte w :: lowByte w :: rest) = .ok (i, rest) := by
  rw [decodeBytes, wordOfBytes_highByte_lowByte, reads]

/-- Settles O3: the word by `decode_encode`, and the two bytes make that word again. -/
theorem decodeOfEncode : Obligations.DecodeOfEncode :=
  fun i => ⟨decode_encode i, decodeBytes_of_decode (decode_encode i)⟩

/-! ## Each part of the decoder drops no bit -/

section
variable {w : Word} {i : Instr}

theorem encode_of_decode0 (reads : decode0 w = .ok i) : encode i = w := by
  unfold decode0 at reads
  split at reads
  case isTrue isCls => cases reads; exact isCls.symm
  case isFalse =>
    split at reads <;> cases reads
    next isRet => exact isRet.symm

theorem encode_of_decode8 (hop : fieldOp w = 0x8#4) (reads : decode8 w = .ok i) : encode i = w := by
  unfold decode8 at reads
  split at reads <;> cases reads
  all_goals exact packXy_of_fields hop ‹_›

theorem encode_of_decodeE (hop : fieldOp w = 0xE#4) (reads : decodeE w = .ok i) : encode i = w := by
  unfold decodeE at reads
  split at reads <;> cases reads
  all_goals exact packXkk_of_fields hop ‹_›

theorem encode_of_decodeF (hop : fieldOp w = 0xF#4) (reads : decodeF w = .ok i) : encode i = w := by
  unfold decodeF at reads
  split at reads <;> cases reads
  all_goals exact packXkk_of_fields hop ‹_›

/-- The last branch of the decoder is major opcode F. -/
theorem nibble_eq_F : ∀ op : Nibble, op ∉ [0x0#4, 0x1#4, 0x2#4, 0x3#4, 0x4#4, 0x5#4, 0x6#4, 0x7#4, 0x8#4, 0x9#4, 0xA#4,
    0xB#4, 0xC#4, 0xD#4, 0xE#4] → op = 0xF#4 := by decide

theorem encode_of_decode (reads : decode w = .ok i) : encode i = w := by
  unfold decode at reads
  split at reads
  case h_1 => exact encode_of_decode0 reads
  case h_9 hop => exact encode_of_decode8 hop reads
  case h_15 hop => exact encode_of_decodeE hop reads
  case h_16 => exact encode_of_decodeF (nibble_eq_F _ (by simp_all)) reads
  case h_6 | h_10 =>
    split at reads <;> cases reads
    exact packXy_of_fields ‹_› ‹_›
  case h_2 | h_3 | h_11 | h_12 => cases reads; exact packNnn_of_fieldOp ‹_›
  case h_4 | h_5 | h_7 | h_8 | h_13 => cases reads; exact packXkk_of_fields ‹_› rfl
  case h_14 => cases reads; exact packXy_of_fields ‹_› rfl
end

/-- Settles O4: each branch of the decoder reads every field of its word, and a word is packed from its fields. -/
theorem encodeOfDecode : Obligations.EncodeOfDecode := fun _ _ => encode_of_decode

/-- Settles O5: the first seven words are encodings; the last is no instruction's word. -/
theorem sampleWordsDecode : Obligations.SampleWordsDecode :=
  ⟨decode_encode .cls, decode_encode (.jp 0x234#12), decode_encode (.seImm 0x2#4 0x10#8),
    decode_encode (.shl 0x0#4 0x1#4), decode_encode (.drw 0x1#4 0x2#4 0x5#4), decode_encode (.stRegs 0x2#4),
    decode_encode (.sknp 0x1#4), rfl⟩

end Sys2Proof.Machine
end

section
/-! SUPPORT. The opcode table and the decoder agree on every word (spec/30_encoding.md R64, R67, decision D10). Settles
O1 and O10. -/

namespace Sys2Proof.Machine

/-! ## A word that a row selects is an instruction's -/

/-- Every word the row selects is the word of some instruction. -/
def SelectsEncodings (r : OpcodeRow) : Prop := ∀ w, r.selects w = true → ∃ i, encode i = w

theorem selects_iff {r : OpcodeRow} {w : Word} : r.selects w = true ↔ w &&& r.mask = r.value := beq_iff_eq

/-- A row selects a word only when the fields that its mask keeps whole are those of its value. -/
theorem field_of_selects {name : String} {mask value w : Word} {start len : Nat}
    (selected : OpcodeRow.selects ⟨name, mask, value⟩ w = true)
    (kept : mask.extractLsb' start len = BitVec.allOnes len) :
    w.extractLsb' start len = value.extractLsb' start len := by
  have masked : w &&& mask = value := selects_iff.mp selected
  rw [← masked, BitVec.extractLsb'_and, kept, BitVec.and_allOnes]

section
variable {name : String} (op n : Nibble) (kk : Byte)

/-- A row that fixes the whole word. -/
theorem selectsEncodings_word (i : Instr) : SelectsEncodings ⟨name, 0xFFFF#16, encode i⟩ := by
  intro w selected
  have whole : w &&& BitVec.allOnes 16 = encode i := selects_iff.mp selected
  exact ⟨i, whole.symm.trans BitVec.and_allOnes⟩

/-- A row that fixes `op` in format NNN. -/
theorem selectsEncodings_nnn (make : Addr12 → Instr) (packs : ∀ nnn, encode (make nnn) = packNnn op nnn) :
    SelectsEncodings ⟨name, 0xF000#16, packNnn op 0#12⟩ := by
  intro w selected
  have hop : fieldOp w = op := (field_of_selects selected (by decide)).trans (fieldOp_packNnn ..)
  exact ⟨make (fieldNnn w), (packs _).trans (packNnn_of_fieldOp hop)⟩

/-- A row that fixes `op` in format XKK. -/
theorem selectsEncodings_xkk (make : Nibble → Byte → Instr) (packs : ∀ x kk, encode (make x kk) = packXkk op x kk) :
    SelectsEncodings ⟨name, 0xF000#16, packXkk op 0#4 0#8⟩ := by
  intro w selected
  have hop : fieldOp w = op := (field_of_selects selected (by decide)).trans (fieldOp_packXkk ..)
  exact ⟨make (fieldX w) (fieldKk w), (packs _ _).trans (packXkk_of_fields hop rfl)⟩

/-- A row that fixes `op` in format XYN. -/
theorem selectsEncodings_xyn (make : Nibble → Nibble → Nibble → Instr)
    (packs : ∀ x y n, encode (make x y n) = packXy op x y n) :
    SelectsEncodings ⟨name, 0xF000#16, packXy op 0#4 0#4 0#4⟩ := by
  intro w selected
  have hop : fieldOp w = op := (field_of_selects selected (by decide)).trans (fieldOp_packXy ..)
  exact ⟨make (fieldX w) (fieldY w) (fieldN w), (packs _ _ _).trans (packXy_of_fields hop rfl)⟩

/-- A row that fixes `op` and `n`. -/
theorem selectsEncodings_xy (make : Nibble → Nibble → Instr) (packs : ∀ x y, encode (make x y) = packXy op x y n) :
    SelectsEncodings ⟨name, 0xF00F#16, packXy op 0#4 0#4 n⟩ := by
  intro w selected
  have hop : fieldOp w = op := (field_of_selects selected (by decide)).trans (fieldOp_packXy ..)
  have hn : fieldN w = n := (field_of_selects selected (by decide)).trans (fieldN_packXy ..)
  exact ⟨make (fieldX w) (fieldY w), (packs _ _).trans (packXy_of_fields hop hn)⟩

/-- A row that fixes `op` and `kk`. -/
theorem selectsEncodings_x (make : Nibble → Instr) (packs : ∀ x, encode (make x) = packXkk op x kk) :
    SelectsEncodings ⟨name, 0xF0FF#16, packXkk op 0#4 kk⟩ := by
  intro w selected
  have hop : fieldOp w = op := (field_of_selects selected (by decide)).trans (fieldOp_packXkk ..)
  have hkk : fieldKk w = kk := (field_of_selects selected (by decide)).trans (fieldKk_packXkk ..)
  exact ⟨make (fieldX w), (packs _).trans (packXkk_of_fields hop hkk)⟩
end

theorem opcodeRowsLow_selectsEncodings : ∀ r ∈ opcodeRowsLow, SelectsEncodings r := by
  simp only [opcodeRowsLow, List.forall_mem_cons]
  exact ⟨selectsEncodings_word .cls,
    selectsEncodings_word .ret,
    selectsEncodings_nnn 0x1#4 .jp fun _ => rfl,
    selectsEncodings_nnn 0x2#4 .call fun _ => rfl,
    selectsEncodings_xkk 0x3#4 .seImm fun _ _ => rfl,
    selectsEncodings_xkk 0x4#4 .sneImm fun _ _ => rfl,
    selectsEncodings_xy 0x5#4 0x0#4 .seReg fun _ _ => rfl,
    selectsEncodings_xkk 0x6#4 .ldImm fun _ _ => rfl,
    selectsEncodings_xkk 0x7#4 .addImm fun _ _ => rfl,
    selectsEncodings_xy 0x8#4 0x0#4 .ldReg fun _ _ => rfl,
    selectsEncodings_xy 0x8#4 0x1#4 .or fun _ _ => rfl,
    selectsEncodings_xy 0x8#4 0x2#4 .and fun _ _ => rfl,
    selectsEncodings_xy 0x8#4 0x3#4 .xor fun _ _ => rfl,
    selectsEncodings_xy 0x8#4 0x4#4 .addReg fun _ _ => rfl,
    selectsEncodings_xy 0x8#4 0x5#4 .sub fun _ _ => rfl,
    selectsEncodings_xy 0x8#4 0x6#4 .shr fun _ _ => rfl,
    selectsEncodings_xy 0x8#4 0x7#4 .subn fun _ _ => rfl,
    selectsEncodings_xy 0x8#4 0xE#4 .shl fun _ _ => rfl,
    selectsEncodings_xy 0x9#4 0x0#4 .sneReg fun _ _ => rfl,
    List.forall_mem_nil _⟩

theorem opcodeRowsHigh_selectsEncodings : ∀ r ∈ opcodeRowsHigh, SelectsEncodings r := by
  simp only [opcodeRowsHigh, List.forall_mem_cons]
  exact ⟨selectsEncodings_nnn 0xA#4 .ldI fun _ => rfl,
    selectsEncodings_nnn 0xB#4 .jprel fun _ => rfl,
    selectsEncodings_xkk 0xC#4 .rnd fun _ _ => rfl,
    selectsEncodings_xyn 0xD#4 .drw fun _ _ _ => rfl,
    selectsEncodings_x 0xE#4 0x9E#8 .skp fun _ => rfl,
    selectsEncodings_x 0xE#4 0xA1#8 .sknp fun _ => rfl,
    selectsEncodings_x 0xF#4 0x07#8 .ldVxDt fun _ => rfl,
    selectsEncodings_x 0xF#4 0x0A#8 .ldVxK fun _ => rfl,
    selectsEncodings_x 0xF#4 0x15#8 .ldDtVx fun _ => rfl,
    selectsEncodings_x 0xF#4 0x18#8 .ldStVx fun _ => rfl,
    selectsEncodings_x 0xF#4 0x1E#8 .addI fun _ => rfl,
    selectsEncodings_x 0xF#4 0x29#8 .ldF fun _ => rfl,
    selectsEncodings_x 0xF#4 0x33#8 .ldB fun _ => rfl,
    selectsEncodings_x 0xF#4 0x55#8 .stRegs fun _ => rfl,
    selectsEncodings_x 0xF#4 0x65#8 .ldRegs fun _ => rfl,
    List.forall_mem_nil _⟩

/-- R67: a word that some row selects is read as an instruction. -/
theorem decode_of_selects {r : OpcodeRow} {w : Word} (listed : r ∈ opcodeTable) (selected : r.selects w = true) :
    ∃ i, decode w = .ok i := by
  have encodes : SelectsEncodings r := (List.mem_append.mp listed).elim (opcodeRowsLow_selectsEncodings r)
    (opcodeRowsHigh_selectsEncodings r)
  obtain ⟨i, rfl⟩ := encodes w selected
  exact ⟨i, decode_encode i⟩

/-! ## An instruction's word is selected by its own row alone -/

/-- The rows' masks and matches contradict each other on some bit that both masks keep. -/
def RowsApart (r q : OpcodeRow) : Prop := r.value &&& q.mask ≠ q.value &&& r.mask

theorem not_selects_of_apart {r q : OpcodeRow} {w : Word} (apart : RowsApart r q) (selected : r.selects w = true) :
    q.selects w ≠ true := by
  refine fun other => apart ?_
  rw [← selects_iff.mp selected, ← selects_iff.mp other]
  ac_rfl

theorem opcodeTable_apart : opcodeTable.Pairwise RowsApart := by
  unfold RowsApart
  decide

/-- In a list of rows that are pairwise apart, a word that one row selects is selected by no other. -/
theorem filter_selects_of_apart {rows : List OpcodeRow} {r : OpcodeRow} {w : Word} (apart : rows.Pairwise RowsApart)
    (listed : r ∈ rows) (selected : r.selects w = true) : rows.filter (·.selects w) = [r] := by
  obtain ⟨before, after, rfl⟩ := List.append_of_mem listed
  obtain ⟨-, apartAfter, apartBefore⟩ := List.pairwise_append.mp apart
  have noneAfter : after.filter (·.selects w) = [] := List.filter_eq_nil_iff.mpr fun q hq =>
    not_selects_of_apart ((List.pairwise_cons.mp apartAfter).1 q hq) selected
  have noneBefore : before.filter (·.selects w) = [] := List.filter_eq_nil_iff.mpr fun q hq other =>
    not_selects_of_apart (apartBefore q hq r List.mem_cons_self) other selected
  have keepsOwn : (r :: after).filter (·.selects w) = r :: after.filter (·.selects w) :=
    List.filter_cons_of_pos selected
  rw [List.filter_append, noneBefore, List.nil_append, keepsOwn, noneAfter]

open Laws.SelectedByItsRow in
theorem selectedByItsRow (i : Instr) : Statement i := by
  cases i
  exacts [cls, ret, jp _, call _, seImm _ _, sneImm _ _, seReg _ _, ldImm _ _, addImm _ _, ldReg _ _, or _ _, and _ _,
    xor _ _, addReg _ _, sub _ _, shr _ _, subn _ _, shl _ _, sneReg _ _, ldI _, jprel _, rnd _ _, drw _ _ _, skp _,
    sknp _, ldVxDt _, ldVxK _, ldDtVx _, ldStVx _, addI _, ldF _, ldB _, stRegs _, ldRegs _]

/-- R64: a legal word selects exactly the row of the instruction it stands for. -/
theorem selectedMnemonics_of_decode {w : Word} {i : Instr} (reads : decode w = .ok i) :
    selectedMnemonics w = [i.mnemonic] := by
  obtain ⟨r, listed, named, selected⟩ := selectedByItsRow i
  rw [encode_of_decode reads] at selected
  rw [selectedMnemonics, filter_selects_of_apart opcodeTable_apart listed selected, ← named]
  rfl

/-- R67: a word the decoder rejects selects no row. -/
theorem selectedMnemonics_of_reject {w : Word} {e : Reject} (rejects : decode w = .error e) :
    selectedMnemonics w = [] := by
  refine List.map_eq_nil_iff.mpr (List.filter_eq_nil_iff.mpr fun r listed selected => ?_)
  obtain ⟨i, reads⟩ := decode_of_selects listed selected
  simp [reads] at rejects

theorem reject_of_selectedMnemonics_nil {w : Word} (unselected : selectedMnemonics w = []) :
    ∃ e, decode w = .error e := by
  cases reads : decode w with
  | error e => exact ⟨e, rfl⟩
  | ok i => simp [selectedMnemonics_of_decode reads] at unselected

/-- The two readings of R67's illegal word: no row selects it. -/
theorem wellFormedWord_eq_false_iff {w : Word} : wellFormedWord w = false ↔ selectedMnemonics w = [] := by
  simp [wellFormedWord, selectedMnemonics]

/-! ## The step of an illegal word -/

/-- R171: an illegal word halts as the fetch left the machine. -/
theorem step_of_unselected {s : State} (running : s.status = .running) (inRange : s.pc.toNat ≤ 4094)
    (illegal : selectedMnemonics s.nextWord = []) :
    step s = .next (raise s.atExecute (.decodeError s.nextWord)) := by
  obtain ⟨e, rejects⟩ := reject_of_selectedMnemonics_nil illegal
  exact step_of_illegal running inRange rejects

/-- Settles O1: the decoder's two outcomes, by `selectedMnemonics_of_decode` and `selectedMnemonics_of_reject`. -/
theorem wordSelectsItsOpcodeRow : Obligations.WordSelectsItsOpcodeRow := by
  refine ⟨fun w => ?rows, fun s running inRange illegal => ?halts⟩
  case rows =>
    split
    case h_1 reads => exact selectedMnemonics_of_decode reads
    case h_2 rejects => exact selectedMnemonics_of_reject rejects
  case halts => exact ⟨_, step_of_unselected running inRange illegal, rfl⟩

/-- Settles O10: what the fetch wrote and the raised `STATUS` are all that differs. -/
theorem illegalWordHalts : Obligations.IllegalWordHalts := by
  intro s running inRange illFormed
  have frame : s.identicalBut [.ir, .pc, .status] (raise s.atExecute (.decodeError s.nextWord)) :=
    (atExecute_identicalBut s).trans (raise_identicalBut _ _)
  exact ⟨_, step_of_unselected running inRange (wellFormedWord_eq_false_iff.mp illFormed), rfl, rfl,
    atExecute_pc_toNat inRange, (frame.mono (by simp)).unchangedBut⟩

end Sys2Proof.Machine
end

section
/-! SUPPORT. The outcomes of a step, said once (spec/40_step_cycle.md R83 to R90). Settles O7, O8, O9, O11, O12, O21 and
O48. -/

namespace Sys2Proof.Machine

/-! ## The execute phase answers a state -/

/-- R90: no execute phase faults or is refused. -/
theorem exec_answers (i : Instr) (s : State) : ∃ t, exec i s = .next t := by
  have frame := exec_changesOnly i s
  cases outcome : exec i s with
  | next t => exact ⟨t, rfl⟩
  | fault _ | refused _ =>
    rw [outcome] at frame
    exact False.elim frame

/-- A step or an execute phase answers one state. -/
theorem answer_unique {r : Result} {t u : State} (answers : r = .next u) (answers' : r = .next t) : u = t :=
  Host.Outcome.next.inj (answers.symm.trans answers')

/-! ## What ends a step -/

/-- R87: what follows the execute phase changes the timers and the input ports alone. -/
theorem finishStep_identicalBut (s : State) : s.identicalBut [.dt, .st, .key, .rnd, .inputs] (finishStep s) := by
  cases status : s.status with
  | running =>
    rw [finishStep_running status]
    exact (tick_identicalBut s).trans (presentInputs_identicalBut _)
  | halted c =>
    rw [finishStep_halted status]
    exact fun p _ => by cases p <;> simp [Part.identical, Part.same]

@[simp] theorem finishStep_status (s : State) : (finishStep s).status = s.status :=
  finishStep_identicalBut s .status (by decide)

theorem finishStep_ticks {s : State} (completed : s.status = .running) :
    (finishStep s).dt.toNat = s.dt.toNat - 1 ∧ (finishStep s).st.toNat = s.st.toNat - 1 := by
  rw [finishStep_running completed]
  exact ⟨tickTimer_toNat s.dt, tickTimer_toNat s.st⟩

/-! ## The four ways a step goes -/

/-- R83 to R88: the ways a step from `s` goes, with the state each ends in. -/
inductive StepsTo (s : State) : State → Prop where
  | halted (c : Fatal) (halted : s.status = .halted c) : StepsTo s s
  | fetchRefused (running : s.status = .running) (past : 4094 < s.pc.toNat) :
      StepsTo s (raise s (.outOfBounds (.fetch s.pc)))
  | illegal (e : Reject) (running : s.status = .running) (inRange : s.pc.toNat ≤ 4094)
      (rejects : decode s.nextWord = .error e) : StepsTo s (raise s.atExecute (.decodeError s.nextWord))
  | executed (i : Instr) (u : State) (about : s.aboutToRun i) (executes : exec i s.atExecute = .next u) :
      StepsTo s (finishStep u)

theorem step_answers (s : State) : ∃ t, step s = .next t ∧ StepsTo s t := by
  cases status : s.status with
  | halted c => exact ⟨s, step_of_halted status, .halted c status⟩
  | running =>
    by_cases inRange : s.pc.toNat ≤ 4094
    · cases reads : decode s.nextWord with
      | error e => exact ⟨_, step_of_illegal status inRange reads, .illegal e status inRange reads⟩
      | ok i =>
        have about : s.aboutToRun i := ⟨status, inRange, reads⟩
        obtain ⟨u, executes⟩ := exec_answers i s.atExecute
        exact ⟨_, step_of_exec about executes, .executed i u about executes⟩
    · have past : 4094 < s.pc.toNat := Nat.lt_of_not_le inRange
      exact ⟨_, step_of_fetch_refused status past, .fetchRefused status past⟩

theorem stepsTo_of_step {s t : State} (steps : step s = .next t) : StepsTo s t := by
  obtain ⟨t', steps', goes⟩ := step_answers s
  exact answer_unique steps' steps ▸ goes

/-! ## The obligations -/

/-- Settles O7: the execute phase answers a state, and from there it is `step_of_exec`. -/
theorem stepRunsDecodedInstruction : Obligations.StepRunsDecodedInstruction := by
  intro s i about
  obtain ⟨u, executes⟩ := exec_answers i s.atExecute
  rw [step_of_exec about executes, executes]

/-- Settles O8: the gate of the step. -/
theorem haltedStepChangesNothing : Obligations.HaltedStepChangesNothing := fun _ _ halted => step_of_halted halted

/-- Settles O9: the refused fetch writes nothing, so only the raised `STATUS` differs. -/
theorem fetchPastEndHalts : Obligations.FetchPastEndHalts := fun s running past =>
  ⟨_, step_of_fetch_refused running past, rfl, (raise_identicalBut s _).unchangedBut⟩

/-- Settles O11: `finishStep_ticks` for a completed execute phase, `finishStep_halted` for one that halted. -/
theorem completedStepTicksTimers : Obligations.CompletedStepTicksTimers := by
  intro s i about
  obtain ⟨u, executes⟩ := exec_answers i s.atExecute
  refine ⟨u, finishStep u, executes, step_of_exec about executes, fun completed => ?ticks, fun halted => ?stays⟩
  case ticks =>
    obtain ⟨delay, sound⟩ := finishStep_ticks completed
    exact ⟨delay, sound, (finishStep_identicalBut u).unchangedBut⟩
  case stays =>
    cases status : u.status with
    | running => exact absurd status halted
    | halted c => exact finishStep_halted status

/-- Settles O12: `step_answers` and `exec_answers`. -/
theorem everyStepAnswersAState : Obligations.EveryStepAnswersAState :=
  ⟨fun s => (step_answers s).imp fun _ goes => goes.1, exec_answers⟩

/-- A jump to the address it was fetched from undoes the advance of the fetch, so only `IR` is left loaded. -/
theorem atExecute_setPc_self {s : State} {nnn : Addr12} (self : nnn.toNat = s.pc.toNat) :
    s.atExecute.setPc (nnnOperand nnn) = s.setIr s.nextWord := by
  have target : nnnOperand nnn = s.pc := BitVec.eq_of_toNat_eq ((nnnOperand_toNat nnn).trans self)
  rw [target]
  rfl

/-- Settles O21: the execute phase leaves `IR` loaded and nothing else changed, and the tick follows. -/
theorem jumpToItselfOnlyTicks : Obligations.JumpToItselfOnlyTicks := by
  intro s nnn about self
  have executes : exec (.jp nnn) s.atExecute = .next (s.setIr s.nextWord) := by
    rw [exec_jp, atExecute_setPc_self self]
  obtain ⟨t, steps, delay, sound, frame⟩ := step_of_completed about executes about.1
  exact ⟨t, steps, frame .ir (by decide), delay, sound, ((setIr_identicalBut s _).trans frame).unchangedBut⟩

/-- Settles O48: a timer that the execute phase leaves alone reaches the tick as the step began with it. -/
theorem otherInstructionsCountTimersDown : Obligations.OtherInstructionsCountTimersDown := by
  intro s t i about steps completed
  obtain ⟨u, executes⟩ := exec_answers i s.atExecute
  obtain rfl : finishStep u = t := answer_unique (step_of_exec about executes) steps
  rw [finishStep_status] at completed
  obtain ⟨delay, sound⟩ := finishStep_ticks completed
  refine ⟨fun other => ?delay, fun other => ?sound⟩
  case delay =>
    have kept : u.dt = s.dt := exec_identical executes .dt (mt List.mem_singleton.mp other)
    rw [delay, kept]
  case sound =>
    have kept : u.st = s.st := exec_identical executes .st (mt List.mem_singleton.mp other)
    rw [sound, kept]

end Sys2Proof.Machine
end

section
/-! SUPPORT. What the instructions with a fatal condition do on each side of its bound (spec/41_control_transfer.md
R100, R102, spec/44_index_memory.md R143 to R145, spec/45_display.md R151, spec/46_keypad_timers.md R160, R161). -/

namespace Sys2Proof.Machine

variable {s : State}

/-! ## The stack -/

theorem exec_ret_of_empty (empty : s.sp.val = 0) : exec .ret s = .next (raise s (.stackUnderflow s.ir)) := by
  simp [exec, execRet, pop_empty (Fin.ext empty)]

theorem exec_ret_of_depth {k : Fin 16} (depth : s.sp.val = k.val + 1) :
    exec .ret s = .next ((s.setStack s.stack k.castSucc).setPc (s.stack.get k)) := by
  have below : s.sp.val - 1 = k.val := by omega
  simp only [exec, execRet, pop_eq (s := s) (by omega) (by omega), below]
  rfl

theorem exec_call_of_full (nnn : Addr12) (full : s.sp.val = 16) :
    exec (.call nnn) s = .next (raise s (.stackOverflow s.ir)) := by
  simp [exec, execCall, push_full (Fin.ext full)]

theorem exec_call_of_depth {k : Fin 16} (nnn : Addr12) (depth : s.sp.val = k.val) :
    exec (.call nnn) s =
      .next ((s.setStack (s.stack.set k.val s.pc) k.succ).setPc (nnnOperand nnn)) := by
  have room : s.sp.val < 16 := by omega
  simp only [exec, execCall, push_eq room, depth]
  rfl

/-- On a stack that is not empty some slot is the top one. -/
theorem exists_top_slot (nonempty : s.sp.val ≠ 0) : ∃ k : Fin 16, s.sp.val = k.val + 1 :=
  ⟨⟨s.sp.val - 1, by omega⟩, (Nat.succ_pred nonempty).symm⟩

/-- On a stack that is not full some slot is the next free one. -/
theorem exists_free_slot (notFull : s.sp.val ≠ 16) : ∃ k : Fin 16, s.sp.val = k.val := ⟨⟨s.sp.val, by omega⟩, rfl⟩

/-! ## The block at `I` -/

theorem blockFits_three : blockFits s 3 = true ↔ ¬ 4095 < s.i.toNat + 2 := by
  rw [blockFits_iff]
  omega

theorem blockFits_registers (x : Nibble) :
    blockFits s (lastRegister x + 1) = true ↔ ¬ 4095 < s.i.toNat + x.toNat := by
  rw [blockFits_iff, lastRegister]
  omega

theorem blockFits_rows (n : Nibble) :
    blockFits s (rowCount n) = true ↔ ¬ (1 ≤ n.toNat ∧ 4095 < s.i.toNat + n.toNat - 1) := by
  rw [blockFits_iff, rowCount]
  omega

section
variable (x y n : Nibble)

theorem exec_ldB_of_fits (fits : ¬ 4095 < s.i.toNat + 2) :
    exec (.ldB x) s = .next (s.setMem (s.mem.writeBytes (blockBase s) (bcdDigits (s.readV x)))) :=
  if_pos (blockFits_three.mpr fits)

theorem exec_ldB_of_past (past : 4095 < s.i.toNat + 2) :
    exec (.ldB x) s = .next (raise s (.outOfBounds (.mem .fx33 s.i))) :=
  if_neg (mt blockFits_three.mp (not_not_intro past))

theorem exec_stRegs_of_fits (fits : ¬ 4095 < s.i.toNat + x.toNat) :
    exec (.stRegs x) s = .next (s.setMem (s.mem.writeBytes (blockBase s) (blockRegisters s x))) :=
  if_pos ((blockFits_registers x).mpr fits)

theorem exec_stRegs_of_past (past : 4095 < s.i.toNat + x.toNat) :
    exec (.stRegs x) s = .next (raise s (.outOfBounds (.mem .fx55 s.i))) :=
  if_neg (mt (blockFits_registers x).mp (not_not_intro past))

theorem exec_ldRegs_of_fits (fits : ¬ 4095 < s.i.toNat + x.toNat) :
    exec (.ldRegs x) s = .next (loadRegisters s (lastRegister x + 1)) :=
  if_pos ((blockFits_registers x).mpr fits)

theorem exec_ldRegs_of_past (past : 4095 < s.i.toNat + x.toNat) :
    exec (.ldRegs x) s = .next (raise s (.outOfBounds (.mem .fx65 s.i))) :=
  if_neg (mt (blockFits_registers x).mp (not_not_intro past))

/-- The drawing `Dxyn` makes in `s`: the framebuffer and the collision. -/
def drawn (s : State) (x y n : Nibble) : Drawing :=
  s.fb.drawSprite s.mem (blockBase s) (startRow s y) (startColumn s x) (rowCount n)

theorem exec_drw_of_fits (fits : ¬ (1 ≤ n.toNat ∧ 4095 < s.i.toNat + n.toNat - 1)) :
    exec (.drw x y n) s =
      .next ((s.setFb (drawn s x y n).fb).writeV vf (collisionFlag (drawn s x y n))) :=
  if_pos ((blockFits_rows n).mpr fits)

theorem exec_drw_of_past (past : 1 ≤ n.toNat ∧ 4095 < s.i.toNat + n.toNat - 1) :
    exec (.drw x y n) s = .next (raise s (.outOfBounds (.mem .dxyn s.i))) :=
  if_neg (mt (blockFits_rows n).mp (not_not_intro past))

/-! ## The key that a register names -/

theorem skipOnKey_of_key (test : Bool → Bool) (isKey : ¬ 15 < (s.readV x).toNat) :
    skipOnKey test x s = .next (skipIf (test (s.key.getLsbD (s.readV x).toNat)) s) := by
  simp [skipOnKey, keyOperand, isKey, keyPressed]

theorem skipOnKey_of_noKey (test : Bool → Bool) (noKey : 15 < (s.readV x).toNat) :
    skipOnKey test x s = .next (raise s (.outOfBounds (.key (s.readV x)))) := by
  simp [skipOnKey, keyOperand, noKey, keyOutOfBounds]

theorem exec_skp_of_key (isKey : ¬ 15 < (s.readV x).toNat) :
    exec (.skp x) s = .next (skipIf (s.key.getLsbD (s.readV x).toNat) s) := skipOnKey_of_key x id isKey

theorem exec_skp_of_noKey (noKey : 15 < (s.readV x).toNat) :
    exec (.skp x) s = .next (raise s (.outOfBounds (.key (s.readV x)))) := skipOnKey_of_noKey x id noKey

theorem exec_sknp_of_key (isKey : ¬ 15 < (s.readV x).toNat) :
    exec (.sknp x) s = .next (skipIf (!s.key.getLsbD (s.readV x).toNat) s) := skipOnKey_of_key x not isKey

theorem exec_sknp_of_noKey (noKey : 15 < (s.readV x).toNat) :
    exec (.sknp x) s = .next (raise s (.outOfBounds (.key (s.readV x)))) := skipOnKey_of_noKey x not noKey
end

end Sys2Proof.Machine
end

section
/-! SUPPORT. The fatal condition of each instruction, and the halting step (spec/60_exceptions.md R170 to R177). Settles
O37, O44, O49 and O50. -/

namespace Sys2Proof.Machine

/-- The fatal condition that instruction `i` meets in `s`, if any (R170 to R174). -/
def fatalCondition (i : Instr) (s : State) : Option Fatal :=
  match i with
  | .ret => if s.sp.val = 0 then some (.stackUnderflow s.ir) else none
  | .call _ => if s.sp.val = 16 then some (.stackOverflow s.ir) else none
  | .drw _ _ n =>
    if 1 ≤ n.toNat ∧ 4095 < s.i.toNat + n.toNat - 1 then some (.outOfBounds (.mem .dxyn s.i)) else none
  | .ldB _ => if 4095 < s.i.toNat + 2 then some (.outOfBounds (.mem .fx33 s.i)) else none
  | .stRegs x => if 4095 < s.i.toNat + x.toNat then some (.outOfBounds (.mem .fx55 s.i)) else none
  | .ldRegs x => if 4095 < s.i.toNat + x.toNat then some (.outOfBounds (.mem .fx65 s.i)) else none
  | .skp x | .sknp x => if 15 < (s.readV x).toNat then some (.outOfBounds (.key (s.readV x))) else none
  | _ => none

section
variable {i : Instr} {s t : State} {c : Fatal}

/-! ## A fatal condition that holds -/

theorem raises_of_ite {p : Prop} [Decidable p] {own : Fatal} (raises : p → exec i s = .next (raise s own))
    (fatal : (if p then some own else none) = some c) : exec i s = .next (raise s c) := by
  obtain ⟨holds, ⟨⟩⟩ := Option.ite_none_right_eq_some.mp fatal
  exact raises holds

/-- R175: an instruction whose fatal condition holds raises it and does nothing else. -/
theorem exec_of_fatal (fatal : fatalCondition i s = some c) : exec i s = .next (raise s c) := by
  cases i
  case ret => exact raises_of_ite exec_ret_of_empty fatal
  case call nnn => exact raises_of_ite (exec_call_of_full nnn) fatal
  case drw x y n => exact raises_of_ite (exec_drw_of_past x y n) fatal
  case ldB x => exact raises_of_ite (exec_ldB_of_past x) fatal
  case stRegs x => exact raises_of_ite (exec_stRegs_of_past x) fatal
  case ldRegs x => exact raises_of_ite (exec_ldRegs_of_past x) fatal
  case skp x => exact raises_of_ite (exec_skp_of_noKey x) fatal
  case sknp x => exact raises_of_ite (exec_sknp_of_noKey x) fatal
  all_goals cases fatal

/-- Decision D8: an execute phase whose fatal condition holds halts, changes nothing else, and is not ticked. -/
theorem exec_halts (fatal : fatalCondition i s = some c) :
    ∃ t, exec i s = .next t ∧ t.status = .halted c ∧ s.unchangedBut [.status] t ∧ finishStep t = t :=
  ⟨raise s c, exec_of_fatal fatal, rfl, (raise_identicalBut s c).unchangedBut, finishStep_raise s c⟩

/-! ## A fatal condition that does not hold -/

theorem not_of_ite_eq_none {p : Prop} [Decidable p] {own : Fatal} (noFatal : (if p then some own else none) = none) :
    ¬ p := fun holds => nomatch ite_eq_right_iff.mp noFatal holds

theorem keeps_status_of_ite {p : Prop} [Decidable p] {own : Fatal}
    (completes : ¬ p → ∃ u, exec i s = .next u ∧ u.status = s.status)
    (noFatal : (if p then some own else none) = none) (executes : exec i s = .next t) : t.status = s.status := by
  obtain ⟨u, completes, kept⟩ := completes (not_of_ite_eq_none noFatal)
  obtain rfl : u = t := answer_unique completes executes
  exact kept

/-- R177: an instruction whose fatal condition does not hold leaves `STATUS` as it was. -/
theorem exec_status_of_no_fatal (noFatal : fatalCondition i s = none) (executes : exec i s = .next t) :
    t.status = s.status := by
  cases i
  case ret =>
    refine keeps_status_of_ite (fun nonempty => ?_) noFatal executes
    obtain ⟨k, depth⟩ := exists_top_slot nonempty
    exact ⟨_, exec_ret_of_depth depth, rfl⟩
  case call nnn =>
    refine keeps_status_of_ite (fun notFull => ?_) noFatal executes
    obtain ⟨k, depth⟩ := exists_free_slot notFull
    exact ⟨_, exec_call_of_depth nnn depth, rfl⟩
  case drw x y n => exact keeps_status_of_ite (fun fits => ⟨_, exec_drw_of_fits x y n fits, rfl⟩) noFatal executes
  case ldB x => exact keeps_status_of_ite (fun fits => ⟨_, exec_ldB_of_fits x fits, rfl⟩) noFatal executes
  case stRegs x => exact keeps_status_of_ite (fun fits => ⟨_, exec_stRegs_of_fits x fits, rfl⟩) noFatal executes
  case ldRegs x =>
    exact keeps_status_of_ite (fun fits => ⟨_, exec_ldRegs_of_fits x fits, loadRegisters_status s _⟩) noFatal executes
  case skp x =>
    exact keeps_status_of_ite (fun isKey => ⟨_, exec_skp_of_key x isKey, skipIf_status _ s⟩) noFatal executes
  case sknp x =>
    exact keeps_status_of_ite (fun isKey => ⟨_, exec_sknp_of_key x isKey, skipIf_status _ s⟩) noFatal executes
  all_goals exact exec_identical executes .status (by simp [Part.writers, Instr.mnemonic])
end

/-! ## The obligations -/

/-- Settles O37: the four accesses past the end are the fatal conditions of their instructions. -/
theorem blockAccessPastEndHalts : Obligations.BlockAccessPastEndHalts := by
  refine ⟨fun x s past => ?bcd, fun x s past => ?store, fun x s past => ?load, fun x y n s hasRow past => ?draw⟩
  case bcd => exact exec_halts (i := .ldB x) (if_pos past)
  case store => exact exec_halts (i := .stRegs x) (if_pos past)
  case load => exact exec_halts (i := .ldRegs x) (if_pos past)
  case draw => exact exec_halts (i := .drw x y n) (if_pos (by omega))

/-- Settles O44: a register that names no key is the fatal condition of both key skips. -/
theorem keyNumberAbove15Halts : Obligations.KeyNumberAbove15Halts :=
  ⟨fun x _ noKey => exec_halts (i := .skp x) (if_pos noKey), fun x _ noKey => exec_halts (i := .sknp x) (if_pos noKey)⟩

/-- The status that an execute phase of a Running machine leaves. -/
theorem exec_status {i : Instr} {s t : State} (running : s.status = .running) (executes : exec i s = .next t) :
    t.status = (fatalCondition i s).elim .running .halted := by
  cases fatal : fatalCondition i s with
  | none => exact (exec_status_of_no_fatal fatal executes).trans running
  | some c =>
    obtain rfl : raise s c = t := answer_unique (exec_of_fatal fatal) executes
    rfl

/-- Settles O49: `exec_status`, where the condition is written out for each instruction. -/
theorem onlyOwnFatalConditionIsRaised : Obligations.OnlyOwnFatalConditionIsRaised := by
  intro i s t running executes
  rw [exec_status running executes]
  cases i
  case ret | call | drw | ldB | stRegs | ldRegs | skp | sknp => exact apply_ite (Option.elim · _ _) _ _ _
  all_goals rfl

/-- R175: raising after the fetch leaves what the fetch wrote, and changes nothing else but `STATUS`. -/
theorem raise_atExecute_frame (s : State) (c : Fatal) :
    s.unchangedBut [.status, .ir, .pc] (raise s.atExecute c) :=
  (((atExecute_identicalBut s).trans (raise_identicalBut _ c)).mono (by simp)).unchangedBut

/-- Settles O50: a halting step is one of the raises; before it the fetch wrote `IR` and `PC`, or nothing. -/
theorem haltingStepIsPrecise : Obligations.HaltingStepIsPrecise := by
  intro s t c running steps halts
  cases stepsTo_of_step steps with
  | halted c' halted => exact absurd (running.symm.trans halted) Status.noConfusion
  | fetchRefused _ past =>
    refine ⟨((raise_identicalBut s _).mono (by simp)).unchangedBut, fun inRange => ?_, fun _ => ⟨rfl, rfl⟩⟩
    exact absurd past (Nat.not_lt.mpr inRange)
  | illegal e _ inRange rejects =>
    exact ⟨raise_atExecute_frame s _, fun _ => ⟨rfl, atExecute_pc_toNat inRange⟩,
      fun past => absurd past (Nat.not_lt.mpr inRange)⟩
  | executed i u about executes =>
    obtain ⟨-, inRange, -⟩ := about
    rw [finishStep_status] at halts
    cases fatal : fatalCondition i s.atExecute with
    | none =>
      have completed : u.status = .running := (exec_status_of_no_fatal fatal executes).trans running
      exact absurd (completed.symm.trans halts) Status.noConfusion
    | some c' =>
      obtain rfl : raise s.atExecute c' = u := answer_unique (exec_of_fatal fatal) executes
      exact ⟨raise_atExecute_frame s c', fun _ => ⟨rfl, atExecute_pc_toNat inRange⟩,
        fun past => absurd past (Nat.not_lt.mpr inRange)⟩

end Sys2Proof.Machine
end

section
/-! SUPPORT. The stack controller and the relative jump (spec/41_control_transfer.md R100 to R104). Settles O16, O18,
O19 and O20. -/

namespace Sys2Proof.Machine

theorem exec_jprel (nnn : Addr12) (s : State) :
    exec (.jprel nnn) s = .next (s.setPc (s.pc + nnnOperand nnn)) := rfl

/-- R103, decision D11: the target of a relative jump as a number. -/
theorem relativeTarget_toNat (pc : Word) (nnn : Addr12) :
    (pc + nnnOperand nnn).toNat = (pc.toNat + nnn.toNat) % 65536 := by
  rw [BitVec.toNat_add, nnnOperand_toNat]

/-- R102: a write of one slot reads back there and leaves every other slot. -/
theorem stack_get_set (stack : Vector Word 16) (k j : Fin 16) (w : Word) :
    (stack.set k.val w).get j = if j = k then w else stack.get j := by
  have sameSlot : k.val = j.val ↔ j = k := ⟨fun same => Fin.ext same.symm, fun same => congrArg Fin.val same.symm⟩
  simp only [Vector.get_eq_getElem, Vector.getElem_set, sameSlot]

/-- Settles O16: the slot below the depth is the target, or the stack is empty and that is fatal. -/
theorem returnPopsStack : Obligations.ReturnPopsStack := by
  refine ⟨fun s k depth => ⟨_, exec_ret_of_depth depth, rfl, rfl, ?_⟩, fun s empty => ?_⟩
  · exact ((setStack_self_identicalBut s _).trans (setPc_identicalBut _ _)).mono (by simp) |>.unchangedBut
  · exact exec_halts (i := .ret) (if_pos (congrArg Fin.val empty))

/-- Settles O18: the free slot receives the advanced `PC`, or the stack is full and that is fatal. -/
theorem callPushesReturnAddress : Obligations.CallPushesReturnAddress := by
  refine ⟨fun nnn s k depth => ⟨_, exec_call_of_depth nnn depth, ?slot, rfl, nnnOperand_toNat nnn,
    fun j other => ?others, ?frame⟩, fun nnn s full => ?halts⟩
  case slot => exact (stack_get_set s.stack k k s.pc).trans (if_pos rfl)
  case others => exact (stack_get_set s.stack k j s.pc).trans (if_neg other)
  case frame => exact (((setStack_identicalBut s _ _).trans (setPc_identicalBut _ _)).mono (by simp)).unchangedBut
  case halts => exact exec_halts (i := .call nnn) (if_pos (congrArg Fin.val full))

/-- Settles O19: the one write is of `PC`, to the sum. -/
theorem relativeJumpAddsToPc : Obligations.RelativeJumpAddsToPc := fun nnn s =>
  ⟨_, exec_jprel nnn s, relativeTarget_toNat s.pc nnn, (setPc_identicalBut s _).unchangedBut⟩

/-- Settles O20: the slot that the call wrote is the top one at the depth it left, so the return reads it. -/
theorem returnAfterCallResumes : Obligations.ReturnAfterCallResumes := by
  intro nnn s t u k depth calls sameDepth sameSlot
  obtain rfl := answer_unique (exec_call_of_depth nnn depth) calls
  have depthAfter : u.sp.val = k.val + 1 := congrArg Fin.val sameDepth
  have slot : u.stack.get k = s.pc := sameSlot.trans ((stack_get_set s.stack k k s.pc).trans (if_pos rfl))
  exact ⟨_, exec_ret_of_depth depthAfter, slot, Fin.ext depth.symm⟩

end Sys2Proof.Machine
end

section
/-! SUPPORT. The execute phase that writes a flag and then a result (spec/43_alu.md R120, R127 to R131, decision D13).
Settles O26, O27, O28 and O29. -/

namespace Sys2Proof.Machine

section
variable (x y : Nibble) (s : State)

theorem exec_addReg : exec (.addReg x y) s =
    .next (writeFlagThenResult s x (carryFlag (s.readV x) (s.readV y)) (s.readV x + s.readV y)) := rfl

theorem exec_sub : exec (.sub x y) s =
    .next (writeFlagThenResult s x (greaterFlag (s.readV x) (s.readV y)) (s.readV x - s.readV y)) := rfl

theorem exec_subn : exec (.subn x y) s =
    .next (writeFlagThenResult s x (greaterFlag (s.readV y) (s.readV x)) (s.readV y - s.readV x)) := rfl

theorem exec_shr : exec (.shr x y) s =
    .next (writeFlagThenResult s x (lowBitFlag (s.readV x)) (s.readV x >>> 1)) := rfl

theorem exec_shl : exec (.shl x y) s =
    .next (writeFlagThenResult s x (highBitFlag (s.readV x)) (s.readV x <<< 1)) := rfl
end

/-! ## The flags as numbers -/

theorem carryFlag_toNat (a b : Byte) : (carryFlag a b).toNat = if a.toNat + b.toNat > 255 then 1 else 0 := by
  simp [carryFlag, flagByte_toNat]

theorem greaterFlag_toNat (a b : Byte) : (greaterFlag a b).toNat = if a.toNat > b.toNat then 1 else 0 := by
  simp [greaterFlag, flagByte_toNat]

theorem lowBitFlag_toNat (a : Byte) : (lowBitFlag a).toNat = a.toNat % 2 := by
  simp [lowBitFlag, Nat.and_one_is_mod]

theorem highBitFlag_toNat (a : Byte) : (highBitFlag a).toNat = a.toNat / 128 := by
  have := a.isLt
  rw [highBitFlag, BitVec.toNat_and, BitVec.toNat_ushiftRight, Nat.shiftRight_eq_div_pow]
  exact (Nat.and_one_is_mod _).trans (Nat.mod_eq_of_lt (by omega))

/-! ## The results as numbers -/

theorem difference_toNat (a b : Byte) : (a - b).toNat = (a.toNat + 256 - b.toNat) % 256 := by
  have := b.isLt
  rw [BitVec.toNat_sub]
  omega

theorem halved_toNat (a : Byte) : (a >>> 1).toNat = a.toNat / 2 := by
  rw [BitVec.toNat_ushiftRight, Nat.shiftRight_one]

theorem doubled_toNat (a : Byte) : (a <<< 1).toNat = a.toNat * 2 % 256 := by
  rw [BitVec.toNat_shiftLeft, Nat.shiftLeft_eq]

/-! ## The obligations -/

/-- R120: an execute phase that is a flag and a result completes with the result in `V[x]` and, unless `x` is `VF`, the
flag in `VF`; nothing else changes. -/
theorem exec_writesFlagAndResult {i : Instr} {s : State} {x : Nibble} {flag result : Byte} {flagValue value : Nat}
    (isWrite : exec i s = .next (writeFlagThenResult s x flag result)) (isFlag : flag.toNat = flagValue)
    (isResult : result.toNat = value) :
    ∃ t, exec i s = .next t ∧ (t.readV x).toNat = value ∧ (x ≠ 0xF#4 → (t.readV 0xF#4).toNat = flagValue) ∧
      s.registersBut [x, 0xF#4] t ∧ s.unchangedBut [.v] t := by
  refine ⟨_, isWrite, ?result, fun other => ?flag, fun k kept => ?others, writeFlagThenResult_frame s x flag result⟩
  case result => simpa [writeFlagThenResult_readV] using isResult
  case flag => simpa [writeFlagThenResult_readV, vf, other.symm] using isFlag
  case others => simp_all [writeFlagThenResult_readV, vf]

/-- Settles O26: the flag is the carry, the result the sum. -/
theorem addReportsCarry : Obligations.AddReportsCarry := fun x y s =>
  exec_writesFlagAndResult (exec_addReg x y s) (carryFlag_toNat _ _) (BitVec.toNat_add _ _)

/-- Settles O27: the flag is the strict comparison, the result the difference. -/
theorem subtractReportsStrictGreater : Obligations.SubtractReportsStrictGreater := fun x y s =>
  exec_writesFlagAndResult (exec_sub x y s) (greaterFlag_toNat _ _) (difference_toNat _ _)

/-- Settles O28: as for `SUB`, with the operands exchanged. -/
theorem reverseSubtractReportsStrictGreater : Obligations.ReverseSubtractReportsStrictGreater := fun x y s =>
  exec_writesFlagAndResult (exec_subn x y s) (greaterFlag_toNat _ _) (difference_toNat _ _)

/-- Settles O29: the flag is the bit shifted out, the result half or double; neither form reads `y`. -/
theorem shiftsReportTheLostBit : Obligations.ShiftsReportTheLostBit := by
  refine ⟨fun x y s => ?right, fun x y s => ?left, fun x y z s => ⟨rfl, rfl⟩⟩
  case right => exact exec_writesFlagAndResult (exec_shr x y s) (lowBitFlag_toNat _) (halved_toNat _)
  case left => exact exec_writesFlagAndResult (exec_shl x y s) (highBitFlag_toNat _) (doubled_toNat _)

end Sys2Proof.Machine
end

section
/-! SUPPORT. Which general register an execute phase changes (spec/10_state.md R11, spec/43_alu.md R134). Settles
O52. -/

namespace Sys2Proof.Machine

section
variable {s t : State} {x k : Nibble} {flag result : Byte}

theorem eq_destination_of_writeV (executes : Host.Outcome.next (s.writeV x result) = (.next t : Result))
    (changed : t.readV k ≠ s.readV k) : k = x := by
  obtain rfl := Host.Outcome.next.inj executes
  exact not_imp_comm.mp (State.readV_writeV_other s result) changed

theorem eq_destination_or_flag_of_write
    (executes : Host.Outcome.next (writeFlagThenResult s x flag result) = (.next t : Result))
    (changed : t.readV k ≠ s.readV k) : k = x ∨ k = 0xF#4 := by
  obtain rfl := Host.Outcome.next.inj executes
  by_contra neither
  obtain ⟨notDestination, notFlag⟩ := not_or.mp neither
  exact changed (by simp [writeFlagThenResult_readV, vf, notDestination, notFlag])

theorem readV_eq_of_exec {i : Instr} (executes : exec i s = .next t) (notWriter : i.mnemonic ∉ Part.v.writers)
    (k : Nibble) : t.readV k = s.readV k := by
  have sameFile : t.v = s.v := exec_identical executes .v notWriter
  rw [State.readV, State.readV, sameFile]

/-- R162: the wait for a key takes `PC` back, or writes `V[x]`. -/
theorem exec_ldVxK_cases (x : Nibble) (s : State) :
    exec (.ldVxK x) s = .next (s.setPc (s.pc - 2#16)) ∨ ∃ key, exec (.ldVxK x) s = .next (s.writeV x key) := by
  cases lowest : lowestPressedKey s with
  | none => exact .inl (by simp [exec, execLdVxK, lowest])
  | some key => exact .inr ⟨BitVec.ofNat 8 key, by simp [exec, execLdVxK, lowest]⟩

theorem eq_flag_of_drw {y n : Nibble} (executes : exec (.drw x y n) s = .next t)
    (changed : t.readV k ≠ s.readV k) : k = 0xF#4 := by
  by_cases past : 1 ≤ n.toNat ∧ 4095 < s.i.toNat + n.toNat - 1
  · obtain rfl := answer_unique (exec_drw_of_past x y n past) executes
    exact absurd rfl changed
  · obtain rfl := answer_unique (exec_drw_of_fits x y n past) executes
    exact not_imp_comm.mp (State.readV_writeV_other (s.setFb _) _) changed

theorem eq_destination_of_ldVxK (executes : exec (.ldVxK x) s = .next t) (changed : t.readV k ≠ s.readV k) :
    k = x := by
  obtain waits | ⟨key, reads⟩ := exec_ldVxK_cases x s
  · obtain rfl := answer_unique waits executes
    exact absurd rfl changed
  · exact eq_destination_of_writeV (reads.symm.trans executes) changed

theorem le_last_of_ldRegs (executes : exec (.ldRegs x) s = .next t) (changed : t.readV k ≠ s.readV k) :
    k.toNat ≤ x.toNat := by
  by_cases past : 4095 < s.i.toNat + x.toNat
  · obtain rfl := answer_unique (exec_ldRegs_of_past x past) executes
    exact absurd rfl changed
  · obtain rfl := answer_unique (exec_ldRegs_of_fits x past) executes
    refine Nat.lt_succ_iff.mp (not_imp_comm.mp (fun above => ?_) changed)
    rw [(loadRegisters_spec s (lastRegister x + 1) x.isLt).1 k]
    exact if_neg above
end

/-- Settles O52: the instructions that write one register, those that write a flag too, and the three others; the rest
leave the register file alone. -/
theorem registersChangeOnlyAsDestinationOrFlag : Obligations.RegistersChangeOnlyAsDestinationOrFlag := by
  intro i s t k executes changed
  cases i
  case ldImm | addImm | rnd | ldReg | or | and | xor | ldVxDt => exact eq_destination_of_writeV executes changed
  case addReg | sub | shr | subn | shl => exact eq_destination_or_flag_of_write executes changed
  case drw => exact eq_flag_of_drw executes changed
  case ldVxK => exact eq_destination_of_ldVxK executes changed
  case ldRegs => exact le_last_of_ldRegs executes changed
  all_goals exact changed (readV_eq_of_exec executes (by simp [Part.writers, Instr.mnemonic]) k)

end Sys2Proof.Machine
end

section
/-! SUPPORT. The font address and the skips on a key (spec/44_index_memory.md R142, spec/46_keypad_timers.md R160,
R161). Settles O33 and O43. -/

namespace Sys2Proof.Machine

theorem exec_ldF (x : Nibble) (s : State) : exec (.ldF x) s = .next (s.setI (fontAddress s x)) := rfl

/-- R142: the last character of a whole byte, from the highest `FONT_BASE`, is at 432 + 5 * 255. -/
theorem fontAddress_le (s : State) (x : Nibble) : (fontAddress s x).toNat ≤ 1707 := by
  have := Config.fontBase.isLt
  have := (s.readV x).isLt
  rw [fontAddress_toNat]
  omega

/-- Settles O33: the one write of `I` is of the font address, which stays below the modulus. -/
theorem fontAddressUsesWholeByte : Obligations.FontAddressUsesWholeByte := by
  intro x s
  obtain ⟨t, completes, address, frame⟩ := exec_writesIndex (exec_ldF x s)
  have value := fontAddress_toNat s x
  have bound := fontAddress_le s x
  rw [← address] at value bound
  refine ⟨t, completes, ?_, value, bound, frame⟩
  rw [← value]
  exact (Nat.mod_eq_of_lt t.i.isLt).symm

/-- Settles O43: each of the two is a skip on the level of the key that the register names. -/
theorem keySkips : Obligations.KeySkips := by
  refine ⟨fun x s isKey => ?pressed, fun x s isKey => ?released⟩
  case pressed => exact exec_skips (exec_skp_of_key x (Nat.not_lt.mpr isKey)) rfl
  case released =>
    refine exec_skips (exec_sknp_of_key x (Nat.not_lt.mpr isKey)) ?_
    cases s.key.getLsbD (s.readV x).toNat <;> rfl

end Sys2Proof.Machine
end

section
/-! SUPPORT. The instructions that store and load a block at `I` (spec/44_index_memory.md R143 to R146,
spec/20_memory.md R53). Settles O34, O35, O36, O38 and O39. -/

namespace Sys2Proof.Machine

/-- The digits of a byte fit a byte. -/
theorem digit_toNat {d : Nat} (small : d < 256) : (BitVec.ofNat 8 d).toNat = d :=
  (BitVec.toNat_ofNat d 8).trans (Nat.mod_eq_of_lt small)

/-- An execute phase that stores `bytes` at `I`, all of them in memory: each reads back, and nothing else changes. -/
theorem exec_storesBlock {i : Instr} {s : State} {bytes : List Byte}
    (isStore : exec i s = .next (s.setMem (s.mem.writeBytes (blockBase s) bytes))) (canonical : s.mem.wf)
    (fits : s.i.toNat + bytes.length ≤ memSize) :
    ∃ t, exec i s = .next t ∧ (∀ k, k < bytes.length → t.mem.read (s.i.toNat + k) = bytes.getD k 0#8) ∧
      (∀ a, ¬ (s.i.toNat ≤ a ∧ a < s.i.toNat + bytes.length) → t.mem.read a = s.mem.read a) ∧
      s.unchangedBut [.mem] t := by
  refine ⟨_, isStore, fun k inside => ?inside, fun a outside => ?outside, (setMem_identicalBut s _).unchangedBut⟩
  case inside =>
    rw [State.setMem_mem, blockBase, Memory.read_writeBytes bytes _ canonical fits, if_pos (by omega),
      Nat.add_sub_cancel_left]
  case outside =>
    rw [State.setMem_mem, blockBase, Memory.read_writeBytes bytes a canonical fits, if_neg outside]

/-- Settles O34: the three bytes stored are the digits, each below 256. -/
theorem storesThreeDecimalDigits : Obligations.StoresThreeDecimalDigits := by
  intro x s canonical inRange
  have byteLt := (s.readV x).isLt
  obtain ⟨t, completes, stored, kept, frame⟩ :=
    exec_storesBlock (exec_ldB_of_fits x (by omega)) canonical (show s.i.toNat + 3 ≤ 4096 by omega)
  refine ⟨t, completes, ?_, ?_, ?_, fun a outside => kept a fun inside => outside ⟨inside.1, ?_⟩, frame⟩
  · exact (congrArg _ (stored 0 (by simp))).trans (digit_toNat (by omega))
  · exact (congrArg _ (stored 1 (by simp))).trans (digit_toNat (by omega))
  · exact (congrArg _ (stored 2 (by simp))).trans (digit_toNat (by omega))
  · exact Nat.lt_succ_iff.mp inside.2

/-- R144: what `Fx55` completes with. -/
theorem exec_stRegs_stores {x : Nibble} {s : State} (canonical : s.mem.wf) (inRange : s.i.toNat + x.toNat ≤ 4095) :
    ∃ t, exec (.stRegs x) s = .next t ∧
      (∀ k : Nibble, k.toNat ≤ x.toNat → t.mem.read (s.i.toNat + k.toNat) = s.readV k) ∧
      (∀ a, ¬ (s.i.toNat ≤ a ∧ a ≤ s.i.toNat + x.toNat) → t.mem.read a = s.mem.read a) ∧ s.unchangedBut [.mem] t := by
  have length := blockRegisters_length s x
  obtain ⟨t, completes, stored, kept, frame⟩ := exec_storesBlock (exec_stRegs_of_fits x (Nat.not_lt.mpr inRange))
    canonical (show s.i.toNat + (blockRegisters s x).length ≤ 4096 by omega)
  refine ⟨t, completes, fun k inside => ?_, fun a outside => kept a (by omega), frame⟩
  rw [stored k.toNat (by omega), blockRegisters_getD s x k inside]

/-- Settles O35: the bytes stored are the registers, in order. -/
theorem storesRegisterBlock : Obligations.StoresRegisterBlock := fun _ _ => exec_stRegs_stores

/-- R145: what `Fx65` completes with. -/
theorem exec_ldRegs_loads {x : Nibble} {s : State} (inRange : s.i.toNat + x.toNat ≤ 4095) :
    ∃ t, exec (.ldRegs x) s = .next t ∧
      (∀ k : Nibble, t.readV k = if k.toNat ≤ x.toNat then s.mem.read (s.i.toNat + k.toNat) else s.readV k) ∧
      s.unchangedBut [.v] t := by
  obtain ⟨loaded, frame⟩ := loadRegisters_spec s (lastRegister x + 1) x.isLt
  refine ⟨_, exec_ldRegs_of_fits x (Nat.not_lt.mpr inRange), fun k => ?_, frame⟩
  rw [loaded k]
  simp only [lastRegister, Nat.lt_succ_iff]

/-- Settles O36: the block is the first `x` + 1 registers. -/
theorem loadsRegisterBlock : Obligations.LoadsRegisterBlock := fun _ _ => exec_ldRegs_loads

/-- Settles O38: the load reads, for each register of the block, the byte that the store wrote for it. -/
theorem loadAfterStoreRestores : Obligations.LoadAfterStoreRestores := by
  intro x s t u canonical inRange stores sameI sameBytes
  obtain ⟨t', stores', stored, -, -⟩ := exec_stRegs_stores canonical inRange
  obtain rfl : t' = t := answer_unique stores' stores
  rw [← sameI] at inRange
  obtain ⟨w, loads, loaded, -⟩ := exec_ldRegs_loads inRange
  refine ⟨w, loads, fun k inside => ?_⟩
  calc w.readV k
    _ = u.mem.read (u.i.toNat + k.toNat) := (loaded k).trans (if_pos inside)
    _ = t'.mem.read (s.i.toNat + k.toNat) := by rw [sameI, sameBytes _ (by omega) (by omega)]
    _ = s.readV k := stored k inside

/-- Settles O39: the fetch reads the bytes at `PC` and `PC + 1`, which are those of two consecutive registers. -/
theorem storedBytesAreFetched : Obligations.StoredBytesAreFetched := by
  intro x k s t u canonical inRange stores sameMem atBlock inside
  obtain ⟨t', stores', stored, -, -⟩ := exec_stRegs_stores canonical inRange
  obtain rfl : t' = t := answer_unique stores' stores
  have xLt := x.isLt
  have succ : (k + 1#4).toNat = k.toNat + 1 := by
    rw [BitVec.toNat_add, BitVec.toNat_ofNat]
    omega
  refine ⟨u.atExecute, fetch_of_le (by omega), ?_⟩
  calc u.atExecute.ir
    _ = wordOfBytes (t'.mem.read (s.i.toNat + k.toNat)) (t'.mem.read (s.i.toNat + (k + 1#4).toNat)) := by
      rw [atExecute_ir, State.nextWord, Memory.readWord, sameMem, atBlock, succ, Nat.add_assoc]
    _ = wordOfBytes (s.readV k) (s.readV (k + 1#4)) := by
      rw [stored k (by omega), stored (k + 1#4) (by omega)]

end Sys2Proof.Machine
end

section
/-! SUPPORT. The state that reset leaves (spec/10_state.md R17, R27, spec/70_reset_and_hazards.md R200 to R203). Settles
O13, O14 and O15. -/

namespace Sys2Proof.Machine

theorem fontBase_add_le : Config.fontBase.val + 80 ≤ 0x200 := by
  have := Config.fontBase.isLt
  omega

/-- R17: the font window of the reset image. -/
theorem resetByte_font (k : Fin 80) : resetByte (Config.fontBase.val + k.val) = Config.fontData k := by
  have := fontBase_add_le
  have below : Config.fontBase.val + k.val < 0x200 := by omega
  simp [resetByte, below, fontByte, fontBase]

/-- R17: outside the font window the reset image is zero. -/
theorem resetByte_of_not_font {a : Nat} (outside : ¬ (Config.fontBase.val ≤ a ∧ a < Config.fontBase.val + 80)) :
    resetByte a = 0#8 := by
  have notFont : ¬ (fontBase ≤ a ∧ a - fontBase < 80) := by
    unfold fontBase
    omega
  rw [resetByte, fontByte, dif_neg notFont, ite_self]

/-- The memory that reset leaves: the ROM from 0x200 on, and the reset image elsewhere. -/
theorem read_resetMemory {rom : List Byte} (fits : rom.length ≤ 3584) (a : Nat) :
    (Memory.writeBytes State.reset.mem romBase rom).read a =
      if 0x200 ≤ a ∧ a < 0x200 + rom.length then rom.getD (a - 0x200) 0#8 else resetByte a :=
  Memory.read_writeBytes rom a reset_mem_wf (show 0x200 + rom.length ≤ 4096 by omega)

/-- Settles O13: the registers are those of `State.reset`, and the memory is `read_resetMemory` in its three regions. -/
theorem resetValues : Obligations.ResetValues := by
  intro rom fits
  refine ⟨_, resetWith_of_le fits, fun x => ?v, rfl, rfl, fun k => ?stack, rfl, rfl, rfl, pixel_clear, rfl, rfl,
    fun k inRom => ?rom, fun k => ?font, fun a notRom notFont => ?zero⟩
  case v => simp [State.readV, State.reset]
  case stack => simp [State.reset, Vector.get_eq_getElem]
  case rom => rw [State.setMem_mem, read_resetMemory fits, if_pos (by omega), Nat.add_sub_cancel_left]
  case font =>
    have := fontBase_add_le
    rw [State.setMem_mem, read_resetMemory fits, if_neg (by omega), resetByte_font]
  case zero => rw [State.setMem_mem, read_resetMemory fits, if_neg notRom, resetByte_of_not_font notFont]

/-- Settles O14: `resetWith` gives no state, so a reset of a machine has none to put its ports on. -/
theorem longRomIsRefused : Obligations.LongRomIsRefused := by
  intro rom long
  have refused := resetWith_of_gt long
  refine ⟨refused, fun s => ?_⟩
  rw [hostReset, refused, Option.map_none]

/-- Settles O15: a reset of a machine puts the machine's ports on the state of the reset. -/
theorem resetDiscardsAllButTheInputs : Obligations.ResetDiscardsAllButTheInputs := by
  intro s rom r resets
  refine ⟨r.setInputs s.key s.rnd s.inputs, ?_, rfl, (setInputs_identicalBut r _ _ _).unchangedBut⟩
  rw [hostReset, resets, Option.map_some]

end Sys2Proof.Machine
end

section
/-! SUPPORT. Memory in its canonical form is determined by what it reads (log entry 5). Settles O54. -/

namespace Sys2Proof.Machine

theorem Memory.wf_cons {a : Nat} {v : Byte} {rest : Memory} (canonical : Memory.wf ((a, v) :: rest)) :
    (∀ c ∈ rest, a < c.1) ∧ v ≠ resetByte a ∧ rest.wf := by
  obtain ⟨sorted, listed⟩ := canonical
  obtain ⟨above, sortedRest⟩ := List.pairwise_cons.mp sorted
  exact ⟨above, (listed _ List.mem_cons_self).2, sortedRest, fun c hc => listed c (List.mem_cons_of_mem _ hc)⟩

theorem Memory.read_cons_same (a : Nat) (v : Byte) (rest : Memory) : Memory.read ((a, v) :: rest) a = v := if_pos rfl

theorem Memory.read_cons_other {a k : Nat} (v : Byte) (rest : Memory) (other : k ≠ a) :
    Memory.read ((a, v) :: rest) k = rest.read k := if_neg other

/-- The first listed byte differs from the reset image, so a memory that reads alike lists something at or below it. -/
theorem Memory.exists_le_of_read_eq {a : Nat} {v : Byte} {rest n : Memory} (canonical : Memory.wf ((a, v) :: rest))
    (alike : n.read a = Memory.read ((a, v) :: rest) a) : ∃ c ∈ n, c.1 ≤ a := by
  by_contra! below
  obtain ⟨-, listed, -⟩ := Memory.wf_cons canonical
  rw [Memory.read_cons_same, Memory.read_of_below n a below] at alike
  exact listed alike.symm

/-- The same for two memories that list something: the first address of one is not below that of the other. -/
theorem Memory.head_le_of_read_eq {a b : Nat} {v w : Byte} {rest tail : Memory}
    (canonical : Memory.wf ((a, v) :: rest)) (canonical' : Memory.wf ((b, w) :: tail))
    (alike : Memory.read ((b, w) :: tail) a = Memory.read ((a, v) :: rest) a) : b ≤ a := by
  obtain ⟨c, hc, le⟩ := Memory.exists_le_of_read_eq canonical alike
  obtain rfl | hc := List.mem_cons.mp hc
  · exact le
  · obtain ⟨above, -, -⟩ := Memory.wf_cons canonical'
    exact (above c hc).le.trans le

theorem Memory.eq_of_read_eq {m n : Memory} (hm : m.wf) (hn : n.wf) (alike : ∀ a, m.read a = n.read a) : m = n := by
  induction m generalizing n with
  | nil =>
    cases n with
    | nil => rfl
    | cons d tail =>
      obtain ⟨c, hc, -⟩ := Memory.exists_le_of_read_eq hn (alike d.1)
      cases hc
  | cons c rest ih =>
    cases n with
    | nil =>
      obtain ⟨d, hd, -⟩ := Memory.exists_le_of_read_eq hm (alike c.1).symm
      cases hd
    | cons d tail =>
      obtain ⟨a, v⟩ := c
      obtain ⟨b, w⟩ := d
      obtain rfl : a = b :=
        le_antisymm (Memory.head_le_of_read_eq hn hm (alike b)) (Memory.head_le_of_read_eq hm hn (alike a).symm)
      obtain ⟨above, -, hrest⟩ := Memory.wf_cons hm
      obtain ⟨above', -, htail⟩ := Memory.wf_cons hn
      obtain rfl : v = w := by simpa [Memory.read_cons_same] using alike a
      congr 1
      refine ih hrest htail fun k => ?_
      by_cases same : k = a
      · rw [same, Memory.read_of_below rest a above, Memory.read_of_below tail a above']
      · simpa [Memory.read_cons_other _ _ same] using alike k

/-- Settles O54, by induction on the two lists. -/
theorem canonicalMemoriesThatReadAlikeAreEqual : Obligations.CanonicalMemoriesThatReadAlikeAreEqual :=
  fun _ _ => Memory.eq_of_read_eq

end Sys2Proof.Machine
end

section
/-! SUPPORT. What every step keeps (spec/10_state.md R15, R28): the execute phase starts from a `PC` that the fetch
left, which bounds every `PC` it can leave and every address it can push. Settles O55, O56 and O57. -/

namespace Sys2Proof.Machine

/-- An address the fetch can leave in `PC`, which is also one that a call can push. -/
def IsAdvancedPc (w : Word) : Prop := 2 ≤ w.toNat ∧ w.toNat ≤ 4096

/-- Every entry on the stack is an address that a call can push. -/
def StackInRange (s : State) : Prop := ∀ k : Fin 16, k.val < s.sp.val → IsAdvancedPc (s.stack.get k)

theorem inv_iff {s : State} : s.Inv ↔ s.mem.wf ∧ s.pc.toNat ≤ 8191 ∧ StackInRange s := Iff.rfl

section
variable {s t : State} {i : Instr}

/-- The invariant speaks of four parts of the state. -/
theorem inv_of_identicalBut {changed : List Part} (inv : s.Inv) (frame : s.identicalBut changed t)
    (kept : ∀ p ∈ [Part.mem, .pc, .stack, .sp], p ∉ changed) : t.Inv := by
  have sameMem : t.mem = s.mem := frame .mem (kept _ (by simp))
  have samePc : t.pc = s.pc := frame .pc (kept _ (by simp))
  have sameStack : t.stack = s.stack := frame .stack (kept _ (by simp))
  have sameSp : t.sp = s.sp := frame .sp (kept _ (by simp))
  rwa [State.Inv, sameMem, samePc, sameStack, sameSp]

/-! ## The fetch -/

theorem isAdvancedPc_atExecute (inRange : s.pc.toNat ≤ 4094) : IsAdvancedPc s.atExecute.pc := by
  have advanced := atExecute_pc_toNat inRange
  constructor <;> omega

theorem inv_atExecute (inv : s.Inv) (inRange : s.pc.toNat ≤ 4094) : s.atExecute.Inv := by
  obtain ⟨canonical, -, stack⟩ := inv_iff.mp inv
  obtain ⟨-, bound⟩ := isAdvancedPc_atExecute inRange
  exact inv_iff.mpr ⟨canonical, bound.trans (by decide), stack⟩

/-! ## An execute phase that does not halt -/

/-- A store through `I` that fits keeps memory canonical; no other instruction writes memory. -/
theorem exec_mem_wf (completes : fatalCondition i s = none) (executes : exec i s = .next t) (canonical : s.mem.wf) :
    t.mem.wf := by
  cases i
  case ldB x =>
    have fits := not_of_ite_eq_none completes
    obtain rfl := answer_unique (exec_ldB_of_fits x fits) executes
    exact Memory.writeBytes_wf _ canonical (show s.i.toNat + 3 ≤ 4096 by omega)
  case stRegs x =>
    have fits := not_of_ite_eq_none completes
    obtain rfl := answer_unique (exec_stRegs_of_fits x fits) executes
    have length := blockRegisters_length s x
    exact Memory.writeBytes_wf _ canonical (show s.i.toNat + (blockRegisters s x).length ≤ 4096 by omega)
  all_goals
    have sameMem : t.mem = s.mem := exec_identical executes .mem (by simp [Part.writers, Instr.mnemonic])
    rwa [sameMem]

/-- A call pushes the advanced `PC` and a return takes an entry off; no other instruction writes the stack. -/
theorem exec_stackInRange (completes : fatalCondition i s = none) (executes : exec i s = .next t)
    (start : IsAdvancedPc s.pc) (stack : StackInRange s) : StackInRange t := by
  cases i
  case ret =>
    obtain ⟨k, depth⟩ := exists_top_slot (not_of_ite_eq_none completes)
    obtain rfl := answer_unique (exec_ret_of_depth depth) executes
    exact fun j (below : j.val < k.val) => stack j (by omega)
  case call nnn =>
    obtain ⟨k, depth⟩ := exists_free_slot (not_of_ite_eq_none completes)
    obtain rfl := answer_unique (exec_call_of_depth nnn depth) executes
    intro j (below : j.val < k.val + 1)
    have pushed : IsAdvancedPc ((s.stack.set k.val s.pc).get j) := by
      rw [stack_get_set]
      split
      case isTrue => exact start
      case isFalse other => exact stack j (by have := Fin.val_ne_of_ne other; omega)
    exact pushed
  all_goals
    have sameStack : t.stack = s.stack := exec_identical executes .stack (by simp [Part.writers, Instr.mnemonic])
    have sameSp : t.sp = s.sp := exec_identical executes .sp (by simp [Part.writers, Instr.mnemonic])
    rwa [StackInRange, sameStack, sameSp]

theorem nnnOperand_le (nnn : Addr12) : (nnnOperand nnn).toNat ≤ 4095 := by
  rw [nnnOperand_toNat]
  omega

theorem skipIf_pc_le (b : Bool) (start : IsAdvancedPc s.pc) : (skipIf b s).pc.toNat ≤ 4098 := by
  obtain ⟨-, bound⟩ := start
  rw [skipIf_pc_toNat]
  split <;> omega

theorem ldVxK_pc_le {x : Nibble} (executes : exec (.ldVxK x) s = .next t) (start : IsAdvancedPc s.pc) :
    t.pc.toNat ≤ 4096 := by
  obtain ⟨two, bound⟩ := start
  obtain waits | ⟨key, reads⟩ := exec_ldVxK_cases x s
  · obtain rfl := answer_unique waits executes
    rw [State.setPc_pc, pc_back_toNat]
    omega
  · obtain rfl := answer_unique reads executes
    exact bound

/-- R15: from an advanced `PC` the farthest transfer is the relative jump, to 4096 + 4095. -/
theorem exec_pc_le (completes : fatalCondition i s = none) (executes : exec i s = .next t)
    (start : IsAdvancedPc s.pc) (stack : StackInRange s) : t.pc.toNat ≤ 8191 := by
  cases i
  case ret =>
    obtain ⟨k, depth⟩ := exists_top_slot (not_of_ite_eq_none completes)
    obtain rfl := answer_unique (exec_ret_of_depth depth) executes
    obtain ⟨-, bound⟩ := stack k (by omega)
    exact bound.trans (by decide)
  case call nnn =>
    obtain ⟨k, depth⟩ := exists_free_slot (not_of_ite_eq_none completes)
    obtain rfl := answer_unique (exec_call_of_depth nnn depth) executes
    exact (nnnOperand_le nnn).trans (by decide)
  case jp nnn =>
    obtain rfl := Host.Outcome.next.inj executes
    exact (nnnOperand_le nnn).trans (by decide)
  case jprel nnn =>
    obtain rfl := Host.Outcome.next.inj executes
    obtain ⟨-, bound⟩ := start
    rw [State.setPc_pc, relativeTarget_toNat]
    omega
  case seImm | sneImm | seReg | sneReg =>
    obtain rfl := Host.Outcome.next.inj executes
    exact (skipIf_pc_le _ start).trans (by decide)
  case skp x =>
    obtain rfl := answer_unique (exec_skp_of_key x (not_of_ite_eq_none completes)) executes
    exact (skipIf_pc_le _ start).trans (by decide)
  case sknp x =>
    obtain rfl := answer_unique (exec_sknp_of_key x (not_of_ite_eq_none completes)) executes
    exact (skipIf_pc_le _ start).trans (by decide)
  case ldVxK => exact (ldVxK_pc_le executes start).trans (by decide)
  all_goals
    have samePc : t.pc = s.pc := exec_identical executes .pc (by simp [Part.writers, Instr.mnemonic])
    obtain ⟨-, bound⟩ := start
    rw [samePc]
    omega

/-! ## The whole step -/

/-- An execute phase from an advanced `PC` keeps the invariant: it raises its fatal condition, or completes. -/
theorem exec_inv (executes : exec i s = .next t) (start : IsAdvancedPc s.pc) (inv : s.Inv) : t.Inv := by
  cases fatal : fatalCondition i s with
  | some c =>
    obtain rfl := answer_unique (exec_of_fatal fatal) executes
    exact inv_of_identicalBut inv (raise_identicalBut s c) (by decide)
  | none =>
    obtain ⟨canonical, -, stack⟩ := inv_iff.mp inv
    exact inv_iff.mpr ⟨exec_mem_wf fatal executes canonical, exec_pc_le fatal executes start stack,
      exec_stackInRange fatal executes start stack⟩

theorem step_inv (steps : step s = .next t) (inv : s.Inv) : t.Inv := by
  cases stepsTo_of_step steps with
  | halted c halted => exact inv
  | fetchRefused running past => exact inv_of_identicalBut inv (raise_identicalBut s _) (by decide)
  | illegal e running inRange rejects =>
    exact inv_of_identicalBut (inv_atExecute inv inRange) (raise_identicalBut _ _) (by decide)
  | executed i u about executes =>
    obtain ⟨-, inRange, -⟩ := about
    have executed : u.Inv := exec_inv executes (isAdvancedPc_atExecute inRange) (inv_atExecute inv inRange)
    exact inv_of_identicalBut executed (finishStep_identicalBut u) (by decide)

/-! ## Reset and the host's moves -/

theorem setInputs_inv (inv : s.Inv) (key : BitVec 16) (rnd : Byte) (inputs : Nat) : (s.setInputs key rnd inputs).Inv :=
  inv_of_identicalBut inv (setInputs_identicalBut s key rnd inputs) (by decide)

theorem reset_inv : State.reset.Inv :=
  inv_iff.mpr ⟨reset_mem_wf, by decide, fun _ below => absurd below (Nat.not_lt_zero _)⟩

/-- A ROM that reset accepts is stored inside memory; the rest of the state is that of `State.reset`. -/
theorem resetWith_inv {rom : List Byte} (resets : State.resetWith rom = some s) : s.Inv := by
  have fits : rom.length ≤ 3584 := by
    by_contra long
    simp [resetWith_of_gt (Nat.lt_of_not_le long)] at resets
  obtain rfl := Option.some.inj ((resetWith_of_le fits).symm.trans resets)
  obtain ⟨canonical, bound, stack⟩ := inv_iff.mp reset_inv
  exact inv_iff.mpr ⟨Memory.writeBytes_wf rom canonical (show 0x200 + rom.length ≤ 4096 by omega), bound, stack⟩

theorem reachable_inv (reaches : Reachable s) : s.Inv := by
  induction reaches with
  | reset rom s resets => exact resetWith_inv resets
  | step s t _ steps ih => exact step_inv steps ih
  | setKey s key _ ih => exact setInputs_inv ih _ _ _
  | resetAgain s t rom _ resets _ =>
    obtain ⟨r, resets', rfl⟩ := Option.map_eq_some_iff.mp resets
    exact setInputs_inv (resetWith_inv resets') _ _ _

end

/-! ## The obligations -/

/-- Settles O55: the ROM lies inside memory, and the rest is `State.reset`. -/
theorem resetMeetsTheInvariant : Obligations.ResetMeetsTheInvariant := ⟨reset_inv, fun _ _ => resetWith_inv⟩

/-- Settles O56: each of the four ways a step goes keeps the invariant. -/
theorem everyStepKeepsTheInvariant : Obligations.EveryStepKeepsTheInvariant := fun _ _ inv steps => step_inv steps inv

/-- Settles O57: the invariant, and the bound that the type of `SP` carries. -/
theorem reachableStatesKeepTheirRanges : Obligations.ReachableStatesKeepTheirRanges := by
  intro s reaches
  obtain ⟨-, pcBound, stack⟩ := reachable_inv reaches
  exact ⟨Nat.lt_succ_iff.mp s.sp.isLt, pcBound, stack⟩

end Sys2Proof.Machine
end

section
/-! SUPPORT. A drawing in the terms of the pixels its sprite covers (spec/45_display.md R151 to R154). Settles O41 and
O42. -/

namespace Sys2Proof.Machine

section
variable {s : State} {x y n : Nibble} {r c : Nat}

theorem drawn_pixel_of_covers (covers : spriteCovers s x y n r c) :
    (drawn s x y n).fb.pixel r c = !s.fb.pixel r c :=
  drawSprite_pixel_hit s.fb ((spriteCovers_iff s x y n r c).mp covers)

theorem drawn_pixel_of_not_covers (misses : ¬ spriteCovers s x y n r c) :
    (drawn s x y n).fb.pixel r c = s.fb.pixel r c :=
  drawSprite_pixel_miss s.fb (mt (spriteCovers_iff s x y n r c).mpr misses)

theorem drawn_collision_iff :
    (drawn s x y n).collision = true ↔ ∃ r c, spriteCovers s x y n r c ∧ s.fb.pixel r c = true := by
  simp only [spriteCovers_iff]
  exact (drawSprite_spec s.fb s.mem (blockBase s) (startRow s y) (startColumn s x) (rowCount n)).2

theorem collisionFlag_of_collision {d : Drawing} (collides : d.collision = true) : collisionFlag d = 1#8 := by
  rw [collisionFlag, collides]
  rfl

theorem collisionFlag_of_no_collision {d : Drawing} (misses : ¬ d.collision = true) : collisionFlag d = 0#8 := by
  rw [collisionFlag, Bool.eq_false_iff.mpr misses]
  rfl

theorem collisionFlag_eq_one_iff {d : Drawing} : collisionFlag d = 1#8 ↔ d.collision = true := by
  refine ⟨fun isOne => ?_, collisionFlag_of_collision⟩
  by_contra misses
  rw [collisionFlag_of_no_collision misses] at isOne
  exact absurd isOne (by decide)

/-- Decision D6 as the statements write it: no rows, or all of them in memory. -/
theorem exec_drw_of_inRange (inRange : n = 0#4 ∨ s.i.toNat + n.toNat ≤ 4096) :
    exec (.drw x y n) s = .next ((s.setFb (drawn s x y n).fb).writeV vf (collisionFlag (drawn s x y n))) := by
  refine exec_drw_of_fits x y n fun past => ?_
  obtain ⟨someRow, past⟩ := past
  obtain rfl | fits := inRange
  · exact absurd someRow (by decide)
  · omega

/-- What a sprite covers rests on its place and its bytes. -/
theorem spriteCovers_congr {u : State} (sameI : u.i = s.i) (sameX : u.readV x = s.readV x)
    (sameY : u.readV y = s.readV y) (sameBytes : ∀ a, u.mem.read a = s.mem.read a) :
    spriteCovers u x y n r c ↔ spriteCovers s x y n r c := by
  simp only [spriteCovers, sameI, sameX, sameY, sameBytes]
end

/-- Settles O41: the drawing inverts the covered pixels, and its collision is the flag, written last. -/
theorem drawInvertsCoveredPixels : Obligations.DrawInvertsCoveredPixels := by
  intro x y n s inRange
  refine ⟨_, exec_drw_of_inRange inRange, fun r c covers => drawn_pixel_of_covers covers,
    fun r c misses => drawn_pixel_of_not_covers misses, fun collides => ?hit, fun misses => ?miss,
    writeV_registersBut (s.setFb _) vf _, ?frame⟩
  case hit =>
    exact (State.readV_writeV_same _ vf _).trans (collisionFlag_of_collision (drawn_collision_iff.mpr collides))
  case miss =>
    exact (State.readV_writeV_same _ vf _).trans (collisionFlag_of_no_collision (mt drawn_collision_iff.mp misses))
  case frame =>
    exact (((setFb_identicalBut s _).trans (writeV_identicalBut _ vf _)).mono (by simp)).unchangedBut

/-- Settles O42: the second drawing covers the same pixels and inverts them again, and it collides where the first one
left a covered pixel set, which is where that pixel was clear. -/
theorem drawTwiceRestores : Obligations.DrawTwiceRestores := by
  intro x y n s t u inRange draws sameFb sameI sameX sameY sameBytes
  obtain rfl := answer_unique (exec_drw_of_inRange inRange) draws
  have fb : u.fb = (drawn s x y n).fb := sameFb
  have covers_iff (r c : Nat) : spriteCovers u x y n r c ↔ spriteCovers s x y n r c :=
    spriteCovers_congr sameI sameX sameY sameBytes
  refine ⟨_, exec_drw_of_inRange (sameI ▸ inRange), framebuffer_ext fun r c => ?restores, ?flag⟩
  case restores =>
    show (drawn u x y n).fb.pixel r c = s.fb.pixel r c
    by_cases covers : spriteCovers s x y n r c
    · rw [drawn_pixel_of_covers ((covers_iff r c).mpr covers), fb, drawn_pixel_of_covers covers, Bool.not_not]
    · rw [drawn_pixel_of_not_covers (mt (covers_iff r c).mp covers), fb, drawn_pixel_of_not_covers covers]
  case flag =>
    have inverted (r c : Nat) (covers : spriteCovers s x y n r c) :
        u.fb.pixel r c = true ↔ s.fb.pixel r c = false := by
      rw [fb, drawn_pixel_of_covers covers, Bool.not_eq_true']
    calc State.readV _ vf = 1#8
      _ ↔ ∃ r c, spriteCovers u x y n r c ∧ u.fb.pixel r c = true := by
        rw [State.readV_writeV_same, collisionFlag_eq_one_iff, drawn_collision_iff]
      _ ↔ ∃ r c, spriteCovers s x y n r c ∧ s.fb.pixel r c = false :=
        exists₂_congr fun r c => by rw [covers_iff]; exact and_congr_right (inverted r c)

end Sys2Proof.Machine
end
